-- ==== Sys2Proof/Word.lean ====
section
/-! DEFINITION. The word types of spec/00_scope.md rule R12. -/

namespace Sys2Proof

/-- `u8` of rule R12. -/
abbrev Byte := BitVec 8

/-- `u24` of rule R12: a flash address as it is transmitted. -/
abbrev U24 := BitVec 24

/-- `u32` of rule R12. -/
abbrev U32 := BitVec 32

/-- `i32` of rule R12, two's complement: compared and multiplied through `BitVec.toInt`. -/
abbrev I32 := BitVec 32

end Sys2Proof
end

