-- ==== Sys2Proof/Config.lean ====
section
/-! DEFINITION. What is fixed for a run: the parameters of spec/00_scope.md rule R10, the launch inputs of rule R11,
and the free values behind the draws of rule R14. -/

namespace Sys2Proof

/-- The flash variant, rule R3. -/
inductive Variant where
  | generic
  | byteProgrammable
  deriving DecidableEq, Repr

/-- The closed enumeration of SPI commands, 30_encoding.md rule R87. -/
inductive Command where
  | rdid | wren | rdsr | se | pp | ce | wrsr
  deriving DecidableEq, Repr

/-- A busy-duration draw (10_state.md rule R38): how many further status reads show busy, or never ending. -/
inductive Duration where
  | reads (n : Nat)
  | forever
  deriving DecidableEq, Repr, Inhabited

/-- The parameters of rule R10. `FLASH_ADDR_BITS` and `HOST_ADDR_BITS` are fixed by the spec's types (decision D5):
they are the definitions below this structure. -/
structure Config where
  VARIANT : Variant
  PAGE_SIZE : Nat
  FLASH_BASE : U32
  OP_RDID : Byte
  OP_WREN : Byte
  OP_RDSR : Byte
  OP_SE : Byte
  OP_PP : Byte
  OP_CE : Byte
  OP_WRSR : Byte
  CLK_DIV_GENERIC : U32
  CLK_DIV_BYTE : U32
  UNLOCK_SR_VALUE : Byte
  RDID_LEN : Nat
  ERASE_RELEASES_FS : Bool
  POLL_LIMIT : Option Nat
  REG_FS : U32
  REG_CLOCK : U32
  REG_WRITE : U32
  REG_RD_STATUS : U32
  deriving DecidableEq, Repr

/-- `FLASH_ADDR_BITS` of rule R10: the width of the 3-byte address (DEDUCED, log entry 17). -/
abbrev FLASH_ADDR_BITS : Nat := 24

/-- `HOST_ADDR_BITS` of rule R10: the width of `U32` (DEDUCED, log entry 17). -/
abbrev HOST_ADDR_BITS : Nat := 32

/-- `CLK_DIV_GENERIC` of the board, OPEN in rule R10: a free value (log entry 2). -/
opaque Config.boardDivGeneric : U32

/-- `CLK_DIV_BYTE` of the board, OPEN in rule R10: a free value (log entry 2). -/
opaque Config.boardDivByte : U32

/-- The defaults of rule R10; the OPEN `VARIANT` and `ERASE_RELEASES_FS` as in program P1 of 95_test_vectors.md
(DESIGN CHOICE, log entry 3). -/
def Config.default : Config where
  VARIANT := .generic
  PAGE_SIZE := 256
  FLASH_BASE := 0x9F000000#32
  OP_RDID := 0x9F#8
  OP_WREN := 0x06#8
  OP_RDSR := 0x05#8
  OP_SE := 0xD8#8
  OP_PP := 0x02#8
  OP_CE := 0xC7#8
  OP_WRSR := 0x01#8
  CLK_DIV_GENERIC := Config.boardDivGeneric
  CLK_DIV_BYTE := Config.boardDivByte
  UNLOCK_SR_VALUE := 0x00#8
  RDID_LEN := 3
  ERASE_RELEASES_FS := true
  POLL_LIMIT := none
  REG_FS := 0x1F000000#32
  REG_CLOCK := 0x1F000004#32
  REG_WRITE := 0x1F000008#32
  REG_RD_STATUS := 0x1F00000C#32

/-- The opcode parameter of a command, rule R87. -/
def Config.opcode (c : Config) : Command → Byte
  | .rdid => c.OP_RDID
  | .wren => c.OP_WREN
  | .rdsr => c.OP_RDSR
  | .se => c.OP_SE
  | .pp => c.OP_PP
  | .ce => c.OP_CE
  | .wrsr => c.OP_WRSR

/-- The commands in the order of rule R87's table. -/
def Command.all : List Command := [.rdid, .wren, .rdsr, .se, .pp, .ce, .wrsr]

/-- The constraints of rule R10 on the parameters (but for the bits of UNLOCK_SR_VALUE: log entry 23). -/
abbrev Config.Valid (c : Config) : Prop :=
  (∃ k : Fin 25, c.PAGE_SIZE = 2 ^ k.val) ∧
  (Command.all.map c.opcode).Nodup ∧
  1 ≤ c.RDID_LEN ∧
  c.POLL_LIMIT ≠ some 0

/-- A geometry (10_state.md rule R18). -/
structure Geometry where
  total_size : U32
  sector_count : U32
  deriving DecidableEq, Repr

/-- The Probe's answer, 45_initialization.md rule R134. -/
inductive ProbeResult where
  | found (g : Geometry)
  | notFound
  deriving DecidableEq, Repr

/-- The launch inputs of rule R11 that do not change during a run; the array contents at power-on are an argument of
`Machine.State.powerOn` and the draws stand in `Draws`. -/
structure Launch where
  PROBE_RESULT : ProbeResult
  FLASH_SIZE : Nat
  FLASH_SECTOR : Nat
  deriving DecidableEq, Repr

/-- The constraints of 10_state.md rules R33 and R34 on the launch inputs. -/
abbrev Launch.Valid (l : Launch) : Prop :=
  1 ≤ l.FLASH_SIZE ∧ l.FLASH_SIZE ≤ 2 ^ 24 ∧
  (∃ k : Fin 25, l.FLASH_SECTOR = 2 ^ k.val) ∧
  l.FLASH_SIZE % l.FLASH_SECTOR = 0

/-- The launch inputs of program P1 of 95_test_vectors.md (DESIGN CHOICE, log entry 3). -/
def Launch.default : Launch where
  PROBE_RESULT := .found ⟨0x400000#32, 64#32⟩
  FLASH_SIZE := 0x400000
  FLASH_SECTOR := 0x10000

/-- The draws chosen at launch (rules R11 and R14), one list per kind, first to be drawn first. When a list is used up,
the draw is the free value of that kind at `count`; every draw advances `count`. The model's own field (log entry 4). -/
structure Draws where
  durations : List Duration
  statusBits : List (BitVec 7)
  bytes : List Byte
  bits : List Bool
  count : Nat
  deriving DecidableEq, Repr

/-- Free value of `draw(busy_duration)`, 20_memory.md rule R59 (log entry 4). -/
opaque Config.freeDuration : Nat → Duration

/-- Free value of `draw(u7)`, 20_memory.md rule R63 (log entry 4). -/
opaque Config.freeStatusBits : Nat → BitVec 7

/-- Free value of `draw(byte)` and `draw(u8)`, rules R60, R66 and R80 (log entry 4). -/
opaque Config.freeByte : Nat → Byte

/-- Free value of `draw(Bool)`, 20_memory.md rule R60 (log entry 4). -/
opaque Config.freeBit : Nat → Bool

/-- Free value of a register whose reset value is unspecified, 10_state.md rules R29 and R41 (log entry 7). -/
opaque Config.freeRegister : Nat → U32

end Sys2Proof
end

