-- ==== Sys2Proof/Syntax.lean ====
section
/-! DEFINITION. The instructions: one constructor per row of spec/opcode_table.json, and the statements of
spec/30_encoding.md rule R93 in which they are issued. -/

namespace Sys2Proof

/-- The instructions of rule R2: the seven SPI command frames and the three host requests. Addresses are `u32`
operands, as in rules R100 and R101: `TX_ADDR` checks that they fit 24 bits. -/
inductive Instr where
  /-- ReadId, rule R97. -/
  | rdid
  /-- WriteEnable, rule R98. -/
  | wren
  /-- ReadStatus, rule R99. -/
  | rdsr
  /-- SectorErase, rule R100. -/
  | se (a : U32)
  /-- PageProgram, rule R101. -/
  | pp (a : U32) (data : List Byte)
  /-- ChipErase, rule R102. -/
  | ce
  /-- WriteStatusRegister, rule R103. -/
  | wrsr (v : Byte)
  /-- INIT, rule R131. -/
  | init
  /-- ERASE, rule R126. -/
  | erase (first last : I32)
  /-- WRITE, rule R119. -/
  | write (dest : U32) (data : List Byte)
  deriving DecidableEq, Repr

/-- The transport-level statements of rule R93, the calls of rules R73 to R81. -/
inductive Call where
  | fs (v : Bool)
  | clk (d : U32)
  | cs
  | tx (b : Byte)
  | txa (a : U32)
  | delay
  | rx
  | rxid
  | go
  deriving DecidableEq, Repr

/-- The levels at which an instruction is issued: rule R2's two levels, two separate code spaces. -/
inductive Level where
  | frame
  | request
  deriving DecidableEq, Repr

/-- A statement of a program in the sense of rule R93: an instruction's bytes at one of the two levels, a
transport-level call, or a read of the flash window by the Host (20_memory.md rule R66). -/
inductive Stmt where
  | frame (bytes : List Byte)
  | request (bytes : List Byte)
  | call (p : Call)
  | read (x : U32)
  deriving DecidableEq, Repr

/-- The level of an instruction, rule R2. -/
def Instr.level : Instr → Level
  | .rdid => .frame
  | .wren => .frame
  | .rdsr => .frame
  | .se _ => .frame
  | .pp _ _ => .frame
  | .ce => .frame
  | .wrsr _ => .frame
  | .init => .request
  | .erase _ _ => .request
  | .write _ _ => .request

end Sys2Proof
end

