-- ==== Sys2Proof/Machine/Bytes.lean ====
section
/-! DEFINITION. Byte order and bit fields: spec/20_memory.md rule R50, spec/30_encoding.md rules R77, R85 to R88. -/

namespace Sys2Proof.Machine

/-- The three bytes `a[23:16], a[15:8], a[7:0]` of an address, rule R50. -/
def addrBytes (a : U32) : List Byte :=
  [a.extractLsb' 16 8, a.extractLsb' 8 8, a.extractLsb' 0 8]

/-- The address assembled from three frame bytes, rule R86. -/
def addrOfBytes (b1 b2 b3 : Byte) : U32 :=
  BitVec.setWidth 32 (b1 ++ b2 ++ b3)

/-- The address `a` fits the 3-byte address, rule R49. -/
def fits24 (a : U32) : Bool :=
  decide (a.toNat < 2 ^ FLASH_ADDR_BITS)

/-- The four bytes of a request's word operand, most significant first (DESIGN CHOICE, log entry 9). -/
def wordBytes (w : U32) : List Byte :=
  [w.extractLsb' 24 8, w.extractLsb' 16 8, w.extractLsb' 8 8, w.extractLsb' 0 8]

/-- The word operand of a request from its four bytes (DESIGN CHOICE, log entry 9). -/
def wordOfBytes (b1 b2 b3 b4 : Byte) : U32 :=
  b1 ++ b2 ++ b3 ++ b4

/-- The data bytes a PP frame may carry: 1 to PAGE_SIZE (rule R85), exactly 1 for the byte-programmable variant
(20_memory.md rule R65, 43_erase_and_program.md rule R116; DEDUCED, log entry 25). -/
def dataFits (c : Config) (ds : List Byte) : Bool :=
  decide (1 ≤ ds.length ∧ ds.length ≤ c.PAGE_SIZE ∧ (c.VARIANT = .byteProgrammable → ds.length = 1))

/-- The command whose opcode parameter is `b`, rules R87 and R88. -/
def commandOf (c : Config) (b : Byte) : Option Command :=
  Command.all.find? (fun k => c.opcode k == b)

end Sys2Proof.Machine
end

