-- ==== Sys2Proof/Machine/State.lean ====
section
/-! DEFINITION. The state of spec/10_state.md, as plain data, and its power-on values (rules R42, R43 and R156). -/

namespace Sys2Proof.Machine

/-- The fault reasons of 60_exceptions.md rule R140. Each is recorded in `State.FAULT` by the step that raises it, and
answered by the step of a state that holds it (rule R141). All are safe: the machine stops where the chip does
something the source does not describe. -/
inductive Fault where
  /-- raised by WRITE and ERASE when INIT_DONE is false; safe -/
  | notInitialized
  /-- raised by INIT when INIT_DONE is true; safe -/
  | reInit
  /-- raised by INIT when the probe's geometry is not valid; safe -/
  | invalidGeometry
  /-- raised by any step that reads an unset register (rule R44); safe -/
  | readUnset
  /-- raised by TX_ADDR and ERASE on an address that is negative or 2^24 or more; safe -/
  | addrOverflow
  /-- raised by the flash on a target at or past FLASH_SIZE; safe -/
  | outOfRange
  /-- raised by the flash on an SE address that is no multiple of FLASH_SECTOR; safe -/
  | misaligned
  /-- raised by the transport and the flash on a frame that fits no format; safe -/
  | malformedFrame
  /-- raised by the flash on a first byte outside the seven opcodes; safe -/
  | unknownOpcode
  /-- raised by the flash on a WREN or mutating frame not ended by GO; safe -/
  | unlatchedCommand
  /-- raised by the flash on a mutating frame with WEL = 0; safe -/
  | noWriteEnable
  /-- raised by the flash on SE, PP or CE with PROT = 1 (`Protected` of rule R140); safe -/
  | protectedArray
  /-- raised by the flash on a frame other than RDSR while BUSY = 1, and by RX_ID; safe -/
  | commandWhileBusy
  /-- raised by CS_START when FS = 0; safe -/
  | notCommandMode
  /-- raised by a Host read of the window when FS = 1; safe -/
  | readWhileCommandMode
  deriving DecidableEq, Repr

/-- Moves the model does not have. All are safe: the machine stops where the spec gives no move. -/
inductive Refusal where
  /-- answered by exec for an instruction without a meaning; safe -/
  | notModelled (mnemonic : String)
  /-- answered by the meaning of a request while ACTIVE is set (rules R92 and R145, I25), and of a WRITE of 2^32 data
  bytes or more, which is no operand of rule R90 (DEDUCED, log entry 19); safe -/
  | notAdmitted
  /-- answered by the fetch of request bytes that are none of the three requests (rule R90; DESIGN CHOICE, log entry
  18); safe -/
  | noSuchRequest
  /-- answered by a Host read of an address outside the flash window, which is outside this block (rule R66;
  DEDUCED, log entry 21); safe -/
  | outsideWindow
  deriving DecidableEq, Repr

/-- The write-enable and busy-poll state, rule R21. -/
inductive Phase where
  | idle | enabled | issued | latched | busy
  deriving DecidableEq, Repr

/-- The read window of the open frame, rule R32. -/
inductive ReadWindow where
  | none | opened | done
  deriving DecidableEq, Repr

/-- A host request with its operands, rules R22 and R90. -/
inductive Request where
  | init
  | erase (first last : I32)
  | write (dest : U32) (data : List Byte)
  deriving DecidableEq, Repr

/-- The result codes of rule R91; INIT's Ok carries total_size (`okSize`). -/
inductive Result where
  | ok
  | okSize (total_size : U32)
  | programError
  | initError
  | timeout
  deriving DecidableEq, Repr

/-- The trace alphabet of rule R84. -/
inductive Event where
  | req (r : Request)
  | res (c : Result)
  | fsSet (v : Bool)
  | clkSet (d : U32)
  | csStart
  | tx (b : Byte)
  | txAddr (a : U24)
  | delay
  | rx (s : Byte)
  | rxId (ids : List Byte)
  | go
  | probe (p : ProbeResult)
  | progress (i : I32)
  | logId (ids : List Byte)
  deriving DecidableEq, Repr

/-- The four operations that send a mutating frame between an ENABLE and a POLL: UNLOCK (rule R132), SECTOR_ERASE
(R114), PROGRAM_PAGE (R115) and PROGRAM_BYTE (R117). Part of a label: it says which caller a flattened procedure
returns to (rule R25). -/
inductive Operation where
  | unlock | sector | page | byte
  deriving DecidableEq, Repr

/-- The labels of the flattened microprogram, rule R25. -/
inductive Label where
  | haltIdle
  /-- INIT from its entry to its clock step, rule R131 -/
  | initEntry
  /-- ENABLE's four calls, rule R106 -/
  | enFs (o : Operation)
  | enCs (o : Operation)
  | enTx (o : Operation)
  | enGo (o : Operation)
  /-- the mutating frame: its chip select, opcode, address, data byte k and latch; rule R24 has no register for the loop
  counter k of rule R115, and the model carries it in the label (DESIGN CHOICE, log entry 29) -/
  | frCs (o : Operation)
  | frOp (o : Operation)
  | frAddr (o : Operation)
  | frData (o : Operation) (k : Nat)
  | frGo (o : Operation)
  /-- POLL, rule R109: its start with the first chip select, the other calls of an iteration, and the tests after its
  status read -/
  | pollStart (o : Operation)
  | pollTx (o : Operation)
  | pollDelay (o : Operation)
  | pollRx (o : Operation)
  | pollTest (o : Operation)
  /-- INIT after the unlock, rules R131 and R133 -/
  | initFsOn
  | idCs
  | idTx
  | idDelay
  | idRx
  | idGo
  | initFsOff
  | initProbe
  /-- INIT after the Probe's answer -/
  | initStore
  /-- ERASE at its entry, and after L_EDONE's FS_SET(0), rule R126 -/
  | eraseEntry
  | eraseEnd
  /-- WRITE at its entry, and after L_DONE's FS_SET(0), rule R119 -/
  | writeEntry
  | writeEnd
  deriving DecidableEq, Repr

/-- The working registers of rule R24; `none` is the spec's "unset" (rule R44). -/
structure Work where
  CUR : Option U32
  REM : Option U32
  SRC : Option Nat
  CHUNK : Option U32
  SEC_I : Option I32
  SEC_LAST : Option I32
  ADDR : Option U32
  STATUS : Option Byte
  POLLS : Option Nat
  ID : Option (List Byte)
  deriving DecidableEq, Repr

/-- Every working register unset: at reset and at the start of every request, rule R24. -/
def Work.unset : Work where
  CUR := none
  REM := none
  SRC := none
  CHUNK := none
  SEC_I := none
  SEC_LAST := none
  ADDR := none
  STATUS := none
  POLLS := none
  ID := none

/-- The transport-side control state, rules R28 to R32, and the rest of the register map of rule R41: the other bits of
SPI_FS, SPI_WRITE, and the response bytes of SPI_RD_STATUS. Rule R41 calls the bits of SPI_WRITE unknown and no rule gives
its width: 32 bits are the model's choice (DESIGN CHOICE, log entry 16). -/
structure Transport where
  FS : Bool
  SPI_FS_OTHER : BitVec 31
  CLKDIV : U32
  SPI_WRITE : U32
  RESP : List Byte
  CS : Bool
  FRAME : List Byte
  FRAME_RD : ReadWindow
  deriving DecidableEq, Repr

/-- Byte cells in one canonical form (`Memory.wf`); what an unlisted address reads as is `unlistedByte` in Ops. -/
abbrev Memory := List Host.Cell

/-- The internal cycle in progress, rule R37. -/
inductive Cycle where
  | none
  | erase (a n : Nat)
  | program (ws : List Host.Cell)
  | writeSR (v : Byte)
  | eraseAll
  deriving DecidableEq, Repr

/-- The flash device, rules R33 to R39. -/
structure Flash where
  ARRAY : Memory
  WEL : Bool
  BUSY : Bool
  PENDING : Cycle
  LEFT : Duration
  PROT : Bool
  deriving DecidableEq, Repr

/-- A reset event from outside, rules R154 and R155: of the sequencer alone, or of sequencer and flash together, with
the array contents found at that power-on (FLASH_INIT, rule R11). -/
inductive ResetEvent where
  | sequencer
  | powerOn (contents : Memory)
  deriving DecidableEq, Repr

/-- The whole machine. `cfg` and `launch` are constants of the run (rule R17, log entry 5): no step writes them. `draws`, `PROGRAM`,
`HOST_BYTE` and `RESET_LINE` are the model's own fields (log entries 4, 8, 12 and 11). -/
structure State where
  cfg : Config
  launch : Launch
  draws : Draws
  GEOM : Option Geometry
  INIT_DONE : Bool
  PHASE : Phase
  ACTIVE : Option Request
  RESULT : Option Result
  work : Work
  pc : Label
  FAULT : Option Fault
  TRACE : List Event
  bus : Transport
  flash : Flash
  PROGRAM : List Stmt
  HOST_BYTE : Option Byte
  RESET_LINE : Option ResetEvent
  deriving DecidableEq, Repr

/-- The transport side at reset, rules R28 to R32 and R42; the registers whose reset value is unspecified take free
values (log entry 7). -/
def Transport.atReset (count : Nat) : Transport where
  FS := false
  SPI_FS_OTHER := BitVec.setWidth 31 (Config.freeRegister (count + 1))
  CLKDIV := Config.freeRegister count
  SPI_WRITE := Config.freeRegister (count + 2)
  RESP := []
  CS := false
  FRAME := []
  FRAME_RD := .none

/-- The flash at power-on, rules R39 and R43. -/
def Flash.atPowerOn (c : Config) (contents : Memory) : Flash where
  ARRAY := contents
  WEL := false
  BUSY := false
  PENDING := .none
  LEFT := .reads 0
  PROT := decide (c.VARIANT = .byteProgrammable)

/-- The start state of a run, rule R156: the power-on state under the parameters `c`, the launch inputs `l` and the
array contents `contents` (FLASH_INIT). -/
def State.powerOn (c : Config) (l : Launch) (contents : Memory) : State where
  cfg := c
  launch := l
  draws := ⟨[], [], [], [], 3⟩
  GEOM := none
  INIT_DONE := false
  PHASE := .idle
  ACTIVE := none
  RESULT := none
  work := Work.unset
  pc := .haltIdle
  FAULT := none
  TRACE := []
  bus := Transport.atReset 0
  flash := Flash.atPowerOn c contents
  PROGRAM := []
  HOST_BYTE := none
  RESET_LINE := none

/-- The machine right after power-on reset, under the default parameters and launch inputs, nothing listed in the
array. -/
def State.reset : State := State.powerOn Config.default Launch.default []

end Sys2Proof.Machine
end

