-- ==== Sys2Proof/Machine/Ops.lean ====
section
/-! DEFINITION. The named operations over memory and registers: the array, draws, the trace, raising a fault
(spec/60_exceptions.md rule R141), starting and ending a request (44_orchestrators.md rule R118), reset
(70_reset_and_hazards.md rules R154 and R155). -/

namespace Sys2Proof.Machine

/-! ## The flash array -/

/-- What an unlisted address of the array reads as: the erased byte of rule R33 (DESIGN CHOICE, log entry 6). -/
def unlistedByte : Byte := 0xFF#8

/-- The erased state of a byte, rule R33. -/
def erasedByte : Byte := 0xFF#8

/-- The canonical form: addresses strictly rising, no entry equal to what an unlisted address reads as. -/
abbrev Memory.wf (m : Memory) : Prop :=
  m.Pairwise (fun x y => x.1 < y.1) ∧ ∀ x ∈ m, x.2 ≠ unlistedByte

/-- The byte at an address. -/
def memRead : Memory → Nat → Byte
  | [], _ => unlistedByte
  | (b, w) :: m, a => if b = a then w else memRead m a

/-- The cell for `v` at `a` in front of `m`, or no cell where an unlisted address reads as `v`. -/
def memCons (a : Nat) (v : Byte) (m : Memory) : Memory :=
  if v = unlistedByte then m else (a, v) :: m

/-- Sets the byte at an address, keeping the canonical form. -/
def memWrite : Memory → Nat → Byte → Memory
  | [], a, v => memCons a v []
  | (b, w) :: m, a, v =>
    if a < b then memCons a v ((b, w) :: m)
    else if a = b then memCons a v m
    else (b, w) :: memWrite m a v

/-- `MemWrite(a, n, [0xFF] * n)` of rule R14: an erased byte is an unlisted one. -/
def memErase (m : Memory) (a n : Nat) : Memory :=
  m.filter (fun x => decide (x.1 < a ∨ a + n ≤ x.1))

/-- `MemRead(a, n)` of rule R14. -/
def memReadList (m : Memory) (a : Nat) : Nat → List Byte
  | 0 => []
  | n + 1 => memRead m a :: memReadList m (a + 1) n

/-! ## Faults and sequencing -/

/-- `raise Fault(x)`, rule R141: FAULT is set and everything else stays as it is (DEDUCED, log entry 1). -/
def raise (x : Fault) (s : State) : State :=
  { s with FAULT := some x }

/-- The next part of a step: performed unless an earlier part raised a fault, rule R141. -/
def State.andThen (s : State) (f : State → State) : State :=
  match s.FAULT with
  | none => f s
  | some _ => s

/-- An instruction in a machine that is not faulted; a faulted machine takes no step, rules R26 and R141. -/
def runs (s : State) (f : State → State) : Host.Outcome State Fault Refusal :=
  match s.FAULT with
  | none => .next (f s)
  | some x => .fault x

/-- A read of a register that may be unset, rule R44. -/
def need {α : Type} (r : Option α) (s : State) (k : α → State) : State :=
  match r with
  | some v => k v
  | none => raise .readUnset s

/-! ## Trace, labels and phases -/

/-- `Emit(e)` of rule R14. -/
def emit (e : Event) (s : State) : State :=
  { s with TRACE := s.TRACE ++ [e] }

/-- `pc <- L` of rule R13. -/
def goTo (l : Label) (s : State) : State :=
  { s with pc := l }

/-- `PHASE <- p`, rule R112. -/
def setPhase (p : Phase) (s : State) : State :=
  { s with PHASE := p }

/-! ## Draws, rule R14 -/

/-- The value of the next busy-duration draw. -/
def nextDuration (s : State) : Duration :=
  s.draws.durations.headD (Config.freeDuration s.draws.count)

/-- The value of the next draw of status bits [7:1]. -/
def nextStatusBits (s : State) : BitVec 7 :=
  s.draws.statusBits.headD (Config.freeStatusBits s.draws.count)

/-- The value of the next byte draw. -/
def nextByte (s : State) : Byte :=
  s.draws.bytes.headD (Config.freeByte s.draws.count)

/-- The value of the next Bool draw. -/
def nextBit (s : State) : Bool :=
  s.draws.bits.headD (Config.freeBit s.draws.count)

/-- The state after a busy-duration draw. -/
def drewDuration (s : State) : State :=
  { s with draws := { s.draws with durations := s.draws.durations.tail, count := s.draws.count + 1 } }

/-- The state after a draw of status bits. -/
def drewStatusBits (s : State) : State :=
  { s with draws := { s.draws with statusBits := s.draws.statusBits.tail, count := s.draws.count + 1 } }

/-- The state after a byte draw. -/
def drewByte (s : State) : State :=
  { s with draws := { s.draws with bytes := s.draws.bytes.tail, count := s.draws.count + 1 } }

/-- The state after a Bool draw. -/
def drewBit (s : State) : State :=
  { s with draws := { s.draws with bits := s.draws.bits.tail, count := s.draws.count + 1 } }

/-- `n` byte draws in order, and the state after them. -/
def drawBytes : Nat → State → List Byte × State
  | 0, s => ([], s)
  | n + 1, s =>
    let (bs, t) := drawBytes n (drewByte s)
    (nextByte s :: bs, t)

/-! ## Requests -/

/-- The entry label of a request's procedure, rule R118. -/
def entryLabel : Request → Label
  | .init => .initEntry
  | .erase _ _ => .eraseEntry
  | .write _ _ => .writeEntry

/-- The Start step of a request, rule R118. -/
def startRequest (r : Request) (s : State) : State :=
  goTo (entryLabel r) (emit (.req r) { s with ACTIVE := some r, work := Work.unset })

/-- "End with c", rule R118: the one return from a request (rule R144). -/
def endWith (c : Result) (s : State) : State :=
  goTo .haltIdle { emit (.res c) s with RESULT := some c, ACTIVE := none, PHASE := .idle }

/-- The operand ranges of rule R90: a WRITE carries fewer than 2^32 data bytes. -/
def requestFits : Request → Bool
  | .init => true
  | .erase _ _ => true
  | .write _ data => decide (data.length < 2 ^ 32)

/-- A request issued by the Host: admitted only while ACTIVE and FAULT are unset, rules R92, R118 and R145. -/
def admitRequest (r : Request) (s : State) : Host.Outcome State Fault Refusal :=
  match s.FAULT with
  | some x => .fault x
  | none =>
    if s.ACTIVE = none ∧ requestFits r = true then .next (startRequest r s) else .refused .notAdmitted

/-- The number of a result code, rule R91 (DEDUCED, log entry 27). -/
def resultCode : Result → Nat
  | .ok => 0
  | .okSize _ => 0
  | .programError => 1
  | .initError => 2
  | .timeout => 3

/-! ## Reset -/

/-- A reset of the sequencer and the transport side, rules R42 and R154; the flash is left as it is, rule R155. -/
def resetSequencer (s : State) : State :=
  { s with
    draws := { s.draws with count := s.draws.count + 3 }
    GEOM := none
    INIT_DONE := false
    PHASE := .idle
    ACTIVE := none
    RESULT := none
    work := Work.unset
    pc := .haltIdle
    FAULT := none
    TRACE := []
    bus := Transport.atReset s.draws.count
    RESET_LINE := none }

/-- A reset event, rules R154 and R155. -/
def applyReset (e : ResetEvent) (s : State) : State :=
  match e with
  | .sequencer => resetSequencer s
  | .powerOn contents => { resetSequencer s with flash := Flash.atPowerOn s.cfg contents }

end Sys2Proof.Machine
end

