-- ==== Sys2Proof/Machine/Flags.lean ====
section
/-! DEFINITION. The status byte and its one interpreted flag: spec/10_state.md rules R36 and R40, spec/20_memory.md
rule R63, spec/42_enable_and_poll.md rule R109. The block has no condition codes (44_orchestrators.md rule R153). -/

namespace Sys2Proof.Machine

/-- The status byte: the opaque bits [7:1] and the busy bit 0, rule R63. -/
def statusByte (opaqueBits : BitVec 7) (busy : Bool) : Byte :=
  opaqueBits ++ BitVec.ofBool busy

/-- Bit 0 of a status byte, the only bit POLL tests, rule R109. -/
def busyFlag (status : Byte) : Bool :=
  status.getLsbD 0

/-- A poll is at its limit: POLL_LIMIT = some k and k or more status reads done, rule R109. -/
def atLimit (c : Config) (polls : Nat) : Bool :=
  match c.POLL_LIMIT with
  | none => false
  | some k => decide (k ≤ polls)

/-- Commands whose frame must be ended by GO, rule R58. -/
def needsLatch : Command → Bool
  | .rdid => false
  | .wren => true
  | .rdsr => false
  | .se => true
  | .pp => true
  | .ce => true
  | .wrsr => true

/-- Mutating commands: those that need WEL = 1, rules R16 and R58. -/
def needsEnable : Command → Bool
  | .rdid => false
  | .wren => false
  | .rdsr => false
  | .se => true
  | .pp => true
  | .ce => true
  | .wrsr => true

/-- Commands refused while PROT = 1, rule R58; WRSR is the unlock itself (rule R103). -/
def needsUnlocked : Command → Bool
  | .rdid => false
  | .wren => false
  | .rdsr => false
  | .se => true
  | .pp => true
  | .ce => true
  | .wrsr => false

/-- Commands with a response, rule R85. -/
def isRead : Command → Bool
  | .rdid => true
  | .wren => false
  | .rdsr => true
  | .se => false
  | .pp => false
  | .ce => false
  | .wrsr => false

/-- `ValidGeometry`, 45_initialization.md rule R135. -/
def validGeometry (g : Geometry) : Bool :=
  decide (1 ≤ g.sector_count.toNat ∧ 1 ≤ g.total_size.toNat ∧ g.total_size.toNat ≤ 2 ^ 24 ∧
    g.total_size.toNat % g.sector_count.toNat = 0)

end Sys2Proof.Machine
end

