-- ==== Sys2Proof/Machine/Operands.lean ====
section
/-! DEFINITION. Operand forms and the arithmetic of spec/44_orchestrators.md rule R153. -/

namespace Sys2Proof.Machine

/-- The address of an open frame, `FRAME[1], FRAME[2], FRAME[3]`, rule R86. -/
def frameAddr (frame : List Byte) : Nat :=
  (addrOfBytes (frame.getD 1 0#8) (frame.getD 2 0#8) (frame.getD 3 0#8)).toNat

/-- `PageTarget(a, k)`, 41_command_primitives.md rule R105. -/
def pageTarget (pageSize a k : Nat) : Nat :=
  (a - a % pageSize) + (a % pageSize + k) % pageSize

/-- The (target, byte) pairs of a PP frame from data byte `k` on, rule R101. -/
def programCells (pageSize a : Nat) : Nat → List Byte → List Host.Cell
  | _, [] => []
  | k, d :: ds => (pageTarget pageSize a k, d) :: programCells pageSize a (k + 1) ds

/-- WRITE's translation of an absolute address, 20_memory.md rule R47. -/
def translate (c : Config) (dest : U32) : U32 :=
  dest - c.FLASH_BASE

/-- WRITE's chunk length, rule R120. -/
def chunkLength (c : Config) (cur rem : U32) : Nat :=
  min rem.toNat (c.PAGE_SIZE - cur.toNat % c.PAGE_SIZE)

/-- `SECTOR_SIZE`, 10_state.md rule R19: a value only where the division is exact, rule R12 (DEDUCED, log
entry 15). -/
def sectorSize (s : State) : Option Nat :=
  match s.GEOM with
  | none => none
  | some g =>
    if 1 ≤ g.sector_count.toNat ∧ g.total_size.toNat % g.sector_count.toNat = 0 then
      some (g.total_size.toNat / g.sector_count.toNat)
    else none

/-- `SEC_I * SECTOR_SIZE`, an exact signed product, rule R127. -/
def sectorAddress (i : I32) (size : Nat) : Int :=
  i.toInt * (size : Int)

/-- The range check of ERASE on a sector address, rule R126: the address, where it fits. -/
def fitSectorAddress (p : Int) : Option U32 :=
  if p < 0 ∨ 2 ^ FLASH_ADDR_BITS ≤ p then none else some (BitVec.ofNat 32 p.toNat)

/-- `SEC_I > SEC_LAST`, a signed comparison, rule R126. -/
def pastLast (i last : I32) : Bool :=
  decide (last.toInt < i.toInt)

/-- The operands of the ERASE in progress. A label of ERASE with another request in ACTIVE is no state of the microprogram;
the spec says nothing of it, and reading the operands there is ReadUnset (DESIGN CHOICE, log entry 28). -/
def eraseOperands (s : State) : Option (I32 × I32) :=
  match s.ACTIVE with
  | some (.erase first last) => some (first, last)
  | _ => none

/-- The operands of the WRITE in progress: the request carries its data, 20_memory.md rule R48; with
another request in ACTIVE as for ERASE (DESIGN CHOICE, log entry 28). -/
def writeOperands (s : State) : Option (U32 × List Byte) :=
  match s.ACTIVE with
  | some (.write dest data) => some (dest, data)
  | _ => none

/-- `data[SRC .. SRC+CHUNK-1]` of the WRITE in progress, rule R119. Where the range passes the end of the data, which the
microprogram never does and the spec does not speak of, the bytes there are (DESIGN CHOICE, log entry 28). -/
def chunkBytes (s : State) : Option (List Byte) :=
  match writeOperands s, s.work.SRC, s.work.CHUNK with
  | some (_, data), some src, some chunk => some ((data.drop src).take chunk.toNat)
  | _, _, _ => none

/-- `data[SRC]` of the WRITE in progress, as a list of one byte, rule R119. An index past the end of the data, which the
microprogram never has and the spec does not speak of, is ReadUnset (DESIGN CHOICE, log entry 28). -/
def currentByte (s : State) : Option (List Byte) :=
  match writeOperands s, s.work.SRC with
  | some (_, data), some src =>
    match data[src]? with
    | some b => some [b]
    | none => none
  | _, _ => none

/-- The bytes an operation sends after its opcode and address: the unlock value (rule R132), none (R114), the chunk
(R115) or the byte (R117). -/
def operationData (o : Operation) (s : State) : Option (List Byte) :=
  match o with
  | .unlock => some [s.cfg.UNLOCK_SR_VALUE]
  | .sector => some []
  | .page => chunkBytes s
  | .byte => currentByte s

/-- The command of an operation's mutating frame. -/
def operationCommand : Operation → Command
  | .unlock => .wrsr
  | .sector => .se
  | .page => .pp
  | .byte => .pp

/-- Bytes in front of the first frame of a list of frames. -/
def consToFrame (bs : List Byte) : List (List Byte) → List (List Byte)
  | [] => [bs]
  | f :: fs => (bs ++ f) :: fs

/-- The wire projection of a trace with its frame boundaries, rule R84: the bytes sent before the first CsStart, then
those of each frame. -/
def wireFrames : List Event → List (List Byte)
  | [] => [[]]
  | .csStart :: es => [] :: wireFrames es
  | .tx b :: es => consToFrame [b] (wireFrames es)
  | .txAddr a :: es => consToFrame (addrBytes (BitVec.setWidth 32 a)) (wireFrames es)
  | _ :: es => wireFrames es

end Sys2Proof.Machine
end

