-- ==== Sys2Proof/Machine/Flash.lean ====
section
/-! DEFINITION. The flash's reaction to frames: spec/20_memory.md rules R58 to R63, spec/41_command_primitives.md
rules R97 to R105. -/

namespace Sys2Proof.Machine

/-- `StartCycle(p)`, rule R59. -/
def startCycle (p : Cycle) (s : State) : State :=
  { drewDuration s with flash := { s.flash with BUSY := true, PENDING := p, LEFT := nextDuration s } }

/-- Programs one byte, rules R60 and R61: a target that is not erased takes a drawn value. -/
def programByte (t : Nat) (d : Byte) (s : State) : State :=
  if memRead s.flash.ARRAY t = erasedByte then
    { s with flash := { s.flash with ARRAY := memWrite s.flash.ARRAY t d } }
  else
    { drewByte s with flash := { s.flash with ARRAY := memWrite s.flash.ARRAY t (nextByte s) } }

/-- Programs the pairs of a cycle in order, rule R60. -/
def programAll : List Host.Cell → State → State
  | [], s => s
  | (t, d) :: ws, s => programAll ws (programByte t d s)

/-- The array and protection effect of a cycle, rule R60; a status write other than the unlock draws PROT, whatever rule
R39 says (DEDUCED, log entry 24). -/
def cycleEffect (p : Cycle) (s : State) : State :=
  match p with
  | .none => s
  | .erase a n => { s with flash := { s.flash with ARRAY := memErase s.flash.ARRAY a n } }
  | .eraseAll => { s with flash := { s.flash with ARRAY := memErase s.flash.ARRAY 0 s.launch.FLASH_SIZE } }
  | .program ws => programAll ws s
  | .writeSR v =>
    if v = s.cfg.UNLOCK_SR_VALUE then { s with flash := { s.flash with PROT := false } }
    else { drewBit s with flash := { s.flash with PROT := nextBit s } }

/-- The end of a cycle, rule R60: WEL and BUSY clear, nothing pending. -/
def closeCycle (s : State) : State :=
  { s with flash := { s.flash with WEL := false, BUSY := false, PENDING := .none } }

/-- `Complete()`, rule R60. -/
def complete (s : State) : State :=
  closeCycle (cycleEffect s.flash.PENDING s)

/-- The first line of `StatusRead()`, rule R63: a cycle with nothing left completes. -/
def completeIfDue (s : State) : State :=
  if s.flash.BUSY ∧ s.flash.LEFT = .reads 0 then complete s else s

/-- One status read less to show busy, rule R63. -/
def countDown : Duration → Duration
  | .reads n => .reads (n - 1)
  | .forever => .forever

/-- `StatusRead()`, rule R63: the status byte and the state after the read. -/
def statusRead (s : State) : Byte × State :=
  let t := completeIfDue s
  let u := drewStatusBits t
  if t.flash.BUSY then
    (statusByte (nextStatusBits t) true, { u with flash := { u.flash with LEFT := countDown u.flash.LEFT } })
  else (statusByte (nextStatusBits t) false, u)

/-- The effect of a command at frame end, rules R97 to R103, after the checks of rule R58. -/
def frameEffect (k : Command) (s : State) : State :=
  let frame := s.bus.FRAME
  match k with
  | .rdid => s
  | .rdsr => s
  | .wren =>
    if frame.length ≠ 1 then raise .malformedFrame s
    else { s with flash := { s.flash with WEL := true } }
  | .se =>
    if frame.length ≠ 4 then raise .malformedFrame s
    else if frameAddr frame % s.launch.FLASH_SECTOR ≠ 0 then raise .misaligned s
    else if s.launch.FLASH_SIZE < frameAddr frame + s.launch.FLASH_SECTOR then raise .outOfRange s
    else startCycle (.erase (frameAddr frame) s.launch.FLASH_SECTOR) s
  | .pp =>
    if frame.length < 5 ∨ dataFits s.cfg (frame.drop 4) = false then raise .malformedFrame s
    else if (programCells s.cfg.PAGE_SIZE (frameAddr frame) 0 (frame.drop 4)).any
        (fun x => decide (s.launch.FLASH_SIZE ≤ x.1)) then raise .outOfRange s
    else startCycle (.program (programCells s.cfg.PAGE_SIZE (frameAddr frame) 0 (frame.drop 4))) s
  | .ce =>
    if frame.length ≠ 1 then raise .malformedFrame s
    else startCycle .eraseAll s
  | .wrsr =>
    if frame.length ≠ 2 then raise .malformedFrame s
    else startCycle (.writeSR (frame.getD 1 0#8)) s

/-- The checks of rule R58 on a command, in their order (rule R142), then its effect. -/
def frameChecks (k : Command) (latched : Bool) (s : State) : State :=
  if needsLatch k ∧ latched = false then raise .unlatchedCommand s
  else if needsEnable k ∧ s.flash.WEL = false then raise .noWriteEnable s
  else if needsUnlocked k ∧ s.flash.PROT = true then raise .protectedArray s
  else if isRead k ∧ s.bus.FRAME.length ≠ 1 then raise .malformedFrame s
  else if isRead k = false ∧ s.bus.FRAME_RD ≠ .none then raise .malformedFrame s
  else frameEffect k s

/-- `FrameEnd(FRAME, latched)`, rule R58 (corners: DEDUCED, log entry 26). -/
def frameEnd (latched : Bool) (s : State) : State :=
  match s.bus.FRAME with
  | [] => s
  | op :: _ =>
    if s.flash.BUSY ∧ op ≠ s.cfg.OP_RDSR then raise .commandWhileBusy s
    else
      match commandOf s.cfg op with
      | none => raise .unknownOpcode s
      | some k => frameChecks k latched s

end Sys2Proof.Machine
end

