-- ==== Sys2Proof/Machine/Transport.lean ====
section
/-! DEFINITION. The transport primitives: spec/30_encoding.md rules R73 to R82. -/

namespace Sys2Proof.Machine

/-! ## The register map and the raw register primitives, rules R41 and R82 -/

/-- The four registers of rule R41 (DEDUCED, log entry 16). -/
inductive Reg where
  | spiFs | spiClock | spiWrite | spiRdStatus
  deriving DecidableEq, Repr

/-- The address parameter of a register, rule R41. -/
def regAddress (c : Config) : Reg → U32
  | .spiFs => c.REG_FS
  | .spiClock => c.REG_CLOCK
  | .spiWrite => c.REG_WRITE
  | .spiRdStatus => c.REG_RD_STATUS

/-- `REG_WR(r, v)`: bit 0 of SPI_FS is FS; SPI_RD_STATUS is read-only, rule R41. -/
def regWr (r : Reg) (v : U32) (t : Transport) : Transport :=
  match r with
  | .spiFs => { t with FS := v.getLsbD 0, SPI_FS_OTHER := v.extractLsb' 1 31 }
  | .spiClock => { t with CLKDIV := v }
  | .spiWrite => { t with SPI_WRITE := v }
  | .spiRdStatus => t

/-- `REG_WR_NF(r, v)`: the same effect on the register, rule R82. -/
def regWrNf (r : Reg) (v : U32) (t : Transport) : Transport :=
  regWr r v t

/-- `REG_RD(r)` as a byte list; SPI_CLOCK and SPI_WRITE are write-only, rule R41. The spec gives REG_RD no form of result,
and calls the access of SPI_FS bits [31:1] unknown: that SPI_FS reads as four bytes, most significant first, and that these
bits read back as last written, are the model's choice (DESIGN CHOICE, log entry 16). -/
def regRd (r : Reg) (t : Transport) : Option (List Byte) :=
  match r with
  | .spiFs => some (wordBytes (t.SPI_FS_OTHER ++ BitVec.ofBool t.FS))
  | .spiClock => none
  | .spiWrite => none
  | .spiRdStatus => some t.RESP

/-! ## The nine primitives -/

/-- The end of an open frame by anything but GO: FrameEnd(FRAME, false), if CS = 1. -/
def endOpenFrame (s : State) : State :=
  if s.bus.CS then frameEnd false s else s

/-- `FS_SET(v)`, rule R73: a raw write of zext_32(v) to SPI_FS. -/
def fsSet (v : Bool) (s : State) : State :=
  (if v then s else (endOpenFrame s).andThen (fun t => { t with bus := { t.bus with CS := false } })).andThen
    (fun t => emit (.fsSet v) { t with bus := regWr .spiFs (BitVec.setWidth 32 (BitVec.ofBool v)) t.bus })

/-- `CLK_SET(d)`, rule R74: a raw write of d to SPI_CLOCK. -/
def clkSet (d : U32) (s : State) : State :=
  emit (.clkSet d) { s with bus := regWr .spiClock d s.bus }

/-- `CS_START()`, rule R75. -/
def csStart (s : State) : State :=
  if s.bus.FS = false then raise .notCommandMode s
  else
    (endOpenFrame s).andThen
      (fun t => emit .csStart { t with bus := { t.bus with CS := true, FRAME := [], FRAME_RD := .none } })

/-- The precondition of TX, TX_ADDR and DELAY, rules R76 to R78. -/
def canSend (s : State) : Bool :=
  s.bus.CS && decide (s.bus.FRAME_RD = .none)

/-- `TX(b)`, rule R76. -/
def tx (b : Byte) (s : State) : State :=
  if canSend s then emit (.tx b) { s with bus := { s.bus with FRAME := s.bus.FRAME ++ [b] } }
  else raise .malformedFrame s

/-- `TX_ADDR(a)`, rule R77. -/
def txAddr (a : U32) (s : State) : State :=
  if fits24 a = false then raise .addrOverflow s
  else if canSend s then
    emit (.txAddr (a.extractLsb' 0 24)) { s with bus := { s.bus with FRAME := s.bus.FRAME ++ addrBytes a } }
  else raise .malformedFrame s

/-- `DELAY()`, rule R78. -/
def delay (s : State) : State :=
  if canSend s then emit .delay { s with bus := { s.bus with FRAME_RD := .opened } }
  else raise .malformedFrame s

/-- The response of the open frame can be fetched: the precondition of RX and RX_ID for opcode `op`. -/
def canFetch (op : Byte) (s : State) : Bool :=
  s.bus.CS && decide (s.bus.FRAME = [op]) && decide (s.bus.FRAME_RD = .opened)

/-- The response bytes shifted in and fetched: they stand in SPI_RD_STATUS, and the window is done. -/
def fetched (bytes : List Byte) (s : State) : State :=
  { s with bus := { s.bus with RESP := bytes, FRAME_RD := .done } }

/-- `RX()`, rule R79; `k` is what the caller does with the byte. -/
def rx (k : Byte → State → State) (s : State) : State :=
  if canFetch s.cfg.OP_RDSR s then
    k (statusRead s).1 (emit (.rx (statusRead s).1) (fetched [(statusRead s).1] (statusRead s).2))
  else raise .malformedFrame s

/-- `RX_ID()`, rule R80; `k` is what the caller does with the bytes. -/
def rxId (k : List Byte → State → State) (s : State) : State :=
  if canFetch s.cfg.OP_RDID s then
    if s.flash.BUSY then raise .commandWhileBusy s
    else
      k (drawBytes s.cfg.RDID_LEN s).1
        (emit (.rxId (drawBytes s.cfg.RDID_LEN s).1)
          (fetched (drawBytes s.cfg.RDID_LEN s).1 (drawBytes s.cfg.RDID_LEN s).2))
  else raise .malformedFrame s

/-- `GO()`, rule R81. -/
def go (s : State) : State :=
  if s.bus.CS then
    (frameEnd true s).andThen (fun t => emit .go { t with bus := { t.bus with CS := false } })
  else raise .malformedFrame s

/-- A transport-level statement of rule R93. -/
def runCall (p : Call) (s : State) : State :=
  match p with
  | .fs v => fsSet v s
  | .clk d => clkSet d s
  | .cs => csStart s
  | .tx b => tx b s
  | .txa a => txAddr a s
  | .delay => delay s
  | .rx => rx (fun _ t => t) s
  | .rxid => rxId (fun _ t => t) s
  | .go => go s

/-! ## Frames -/

/-- `ISSUE(op)`, 41_command_primitives.md rule R95. -/
def issue (op : Byte) (s : State) : State :=
  (csStart s).andThen (tx op)

/-- `ISSUE_ADDR(op, a)`, rule R96. -/
def issueAddr (op : Byte) (a : U32) (s : State) : State :=
  (issue op s).andThen (txAddr a)

/-- TX of each byte of a list in order. -/
def txAll : List Byte → State → State
  | [], s => s
  | b :: bs, s => (tx b s).andThen (txAll bs)

/-- STATUS <- v, as RDSR and POLL do (rules R99 and R109). -/
def setStatus (v : Byte) (s : State) : State :=
  { s with work := { s.work with STATUS := some v } }

/-- ID <- ids, as RDID and READ_ID do (rules R97 and R133). -/
def setId (ids : List Byte) (s : State) : State :=
  { s with work := { s.work with ID := some ids } }

/-- A frame whose bytes are no instruction, sent as they are and latched: the flash faults on it, rules R89 and R104
(DESIGN CHOICE, log entry 18). -/
def sendRaw (bytes : List Byte) (s : State) : State :=
  ((csStart s).andThen (txAll bytes)).andThen go

end Sys2Proof.Machine
end

