-- ==== Sys2Proof/Machine/Frames.lean ====
section
/-! DEFINITION. The meanings of the seven SPI command frames: the transport sequences of spec/30_encoding.md rule R93 and
spec/41_command_primitives.md rules R97 to R103, each run as one step (DESIGN CHOICE, log entry 14). -/

namespace Sys2Proof.Machine

/-- RDID, rule R97: `ISSUE(OP_RDID); DELAY(); ID <- RX_ID(); GO()`. -/
def execRdid (s : State) : Host.Outcome State Fault Refusal :=
  runs s (fun t => (((issue t.cfg.OP_RDID t).andThen delay).andThen (rxId setId)).andThen go)

/-- WREN, rule R98: `ISSUE(OP_WREN); GO()`. -/
def execWren (s : State) : Host.Outcome State Fault Refusal :=
  runs s (fun t => (issue t.cfg.OP_WREN t).andThen go)

/-- RDSR, rule R99: `ISSUE(OP_RDSR); DELAY(); STATUS <- RX()`; the frame stays open. -/
def execRdsr (s : State) : Host.Outcome State Fault Refusal :=
  runs s (fun t => ((issue t.cfg.OP_RDSR t).andThen delay).andThen (rx setStatus))

/-- SE, rule R100: `ISSUE_ADDR(OP_SE, a); GO()`. -/
def execSe (a : U32) (s : State) : Host.Outcome State Fault Refusal :=
  runs s (fun t => (issueAddr t.cfg.OP_SE a t).andThen go)

/-- PP, rule R101: `ISSUE_ADDR(OP_PP, a)`, TX of each data byte, `GO()`. -/
def execPp (a : U32) (data : List Byte) (s : State) : Host.Outcome State Fault Refusal :=
  runs s (fun t => ((issueAddr t.cfg.OP_PP a t).andThen (txAll data)).andThen go)

/-- CE, rule R102: `ISSUE(OP_CE); GO()`. -/
def execCe (s : State) : Host.Outcome State Fault Refusal :=
  runs s (fun t => (issue t.cfg.OP_CE t).andThen go)

/-- WRSR, rule R103: `ISSUE(OP_WRSR); TX(v); GO()`. -/
def execWrsr (v : Byte) (s : State) : Host.Outcome State Fault Refusal :=
  runs s (fun t => ((issue t.cfg.OP_WRSR t).andThen (tx v)).andThen go)

end Sys2Proof.Machine
end

