-- ==== Sys2Proof/Machine/Requests.lean ====
section
/-! DEFINITION. The meanings of the three host requests: the Start step of spec/44_orchestrators.md rule R118. The Body
and the End are the microprogram's steps (Machine/Microprogram.lean), one primitive call each. -/

namespace Sys2Proof.Machine

/-- INIT, rules R118 and R131. -/
def execInit (s : State) : Host.Outcome State Fault Refusal :=
  admitRequest .init s

/-- ERASE, rules R118 and R126. -/
def execErase (first last : I32) (s : State) : Host.Outcome State Fault Refusal :=
  admitRequest (.erase first last) s

/-- WRITE, rules R118 and R119. -/
def execWrite (dest : U32) (data : List Byte) (s : State) : Host.Outcome State Fault Refusal :=
  admitRequest (.write dest data) s

end Sys2Proof.Machine
end

