-- ==== Sys2Proof/Machine/Dispatch.lean ====
section
/-! DEFINITION. One arm per instruction. -/

namespace Sys2Proof.Machine

def exec (i : Instr) (s : State) : Host.Outcome State Fault Refusal :=
  match i with
  | .rdid => Sys2Proof.Machine.execRdid s
  | .wren => Sys2Proof.Machine.execWren s
  | .rdsr => Sys2Proof.Machine.execRdsr s
  | .se a => Sys2Proof.Machine.execSe a s
  | .pp a data => Sys2Proof.Machine.execPp a data s
  | .ce => Sys2Proof.Machine.execCe s
  | .wrsr v => Sys2Proof.Machine.execWrsr v s
  | .init => Sys2Proof.Machine.execInit s
  | .erase first last => Sys2Proof.Machine.execErase first last s
  | .write dest data => Sys2Proof.Machine.execWrite dest data s

end Sys2Proof.Machine
end

