-- ==== Sys2Proof/WellFormed.lean ====
section
/-! DEFINITION. Which instructions have an encoding: the operand ranges of spec/30_encoding.md rules R85 and R90. -/

namespace Sys2Proof

/-- An SE address fits 24 bits; a PP address fits 24 bits and its data fits a frame; a WRITE has fewer than 2^32 data
bytes. The other instructions have no constraint on their operands. -/
def Instr.wellFormed (c : Config) : Instr → Bool
  | .rdid => true
  | .wren => true
  | .rdsr => true
  | .se a => Machine.fits24 a
  | .pp a data => Machine.fits24 a && Machine.dataFits c data
  | .ce => true
  | .wrsr _ => true
  | .init => true
  | .erase _ _ => true
  | .write _ data => decide (data.length < 2 ^ 32)

end Sys2Proof
end

