-- ==== Sys2Proof/Decode.lean ====
section
/-! DEFINITION. The decoder and the encoder: spec/30_encoding.md rules R85 to R90. -/

namespace Sys2Proof

/-- Why a byte list is no instruction. -/
inductive DecodeError where
  /-- no byte at all -/
  | empty
  /-- the first byte of a frame is none of the seven opcode parameters, rule R89 -/
  | unknownOpcode
  /-- the length of a frame does not fit its format, rules R88 and R104 -/
  | malformedFrame
  /-- the tag of a request is none of rule R90's -/
  | unknownRequest
  /-- the operand bytes of a request do not fit it -/
  | malformedRequest
  /-- a transport-level call or a host read: not an instruction of the table -/
  | noInstruction
  deriving DecidableEq, Repr

/-- The operands of a frame by its command's format, rules R85 and R86. -/
def decodeOperands (c : Config) (k : Command) (rest : List Byte) : Except DecodeError Instr :=
  match k, rest with
  | .rdid, [] => .ok .rdid
  | .wren, [] => .ok .wren
  | .rdsr, [] => .ok .rdsr
  | .ce, [] => .ok .ce
  | .se, [b1, b2, b3] => .ok (.se (Machine.addrOfBytes b1 b2 b3))
  | .wrsr, [v] => .ok (.wrsr v)
  | .pp, b1 :: b2 :: b3 :: ds =>
    if Machine.dataFits c ds then .ok (.pp (Machine.addrOfBytes b1 b2 b3) ds) else .error .malformedFrame
  | _, _ => .error .malformedFrame

/-- A frame's bytes, rule R88: the command from the first byte, the rest by its format. -/
def decodeFrame (c : Config) : List Byte → Except DecodeError Instr
  | [] => .error .empty
  | op :: rest =>
    match Machine.commandOf c op with
    | none => .error .unknownOpcode
    | some k => decodeOperands c k rest

/-- A request's bytes: the tag of rule R90, then the operands (layout: DESIGN CHOICE, log entry 9). -/
def decodeRequest : List Byte → Except DecodeError Instr
  | [] => .error .empty
  | tag :: rest =>
    if tag = 0#8 then
      match rest with
      | [] => .ok .init
      | _ => .error .malformedRequest
    else if tag = 1#8 then
      match rest with
      | [f1, f2, f3, f4, l1, l2, l3, l4] =>
        .ok (.erase (Machine.wordOfBytes f1 f2 f3 f4) (Machine.wordOfBytes l1 l2 l3 l4))
      | _ => .error .malformedRequest
    else if tag = 2#8 then
      match rest with
      | d1 :: d2 :: d3 :: d4 :: data =>
        if data.length < 2 ^ 32 then .ok (.write (Machine.wordOfBytes d1 d2 d3 d4) data)
        else .error .malformedRequest
      | _ => .error .malformedRequest
    else .error .unknownRequest

/-- The decoder at a level. -/
def decode (c : Config) (l : Level) (bytes : List Byte) : Except DecodeError Instr :=
  match l with
  | .frame => decodeFrame c bytes
  | .request => decodeRequest bytes

/-- The instruction a statement issues. -/
def decodeStmt (c : Config) : Stmt → Except DecodeError Instr
  | .frame bytes => decode c .frame bytes
  | .request bytes => decode c .request bytes
  | .call _ => .error .noInstruction
  | .read _ => .error .noInstruction

/-- The bytes of an instruction: rule R85 for frames, rule R90 and log entry 9 for requests. -/
def encode (c : Config) : Instr → List Byte
  | .rdid => [c.OP_RDID]
  | .wren => [c.OP_WREN]
  | .rdsr => [c.OP_RDSR]
  | .se a => c.OP_SE :: Machine.addrBytes a
  | .pp a data => c.OP_PP :: (Machine.addrBytes a ++ data)
  | .ce => [c.OP_CE]
  | .wrsr v => [c.OP_WRSR, v]
  | .init => [0#8]
  | .erase first last => 1#8 :: (Machine.wordBytes first ++ Machine.wordBytes last)
  | .write dest data => 2#8 :: (Machine.wordBytes dest ++ data)

/-- The statement that issues an instruction at its own level. -/
def stmtOf (c : Config) (i : Instr) : Stmt :=
  match i.level with
  | .frame => .frame (encode c i)
  | .request => .request (encode c i)

/-- The length of a command's shortest frame, rule R85 (PP: one data byte). -/
def shortestFrame : Command → Nat
  | .rdid => 1
  | .wren => 1
  | .rdsr => 1
  | .se => 4
  | .pp => 5
  | .ce => 1
  | .wrsr => 2

/-- The length of a request's shortest byte list (WRITE: no data byte). -/
def shortestRequest (tag : Byte) : Nat :=
  if tag = 1#8 then 9 else if tag = 2#8 then 5 else 1

/-- `bytes`, followed by zero bytes up to length `n`. -/
def zeroPad (n : Nat) (bytes : List Byte) : List Byte :=
  bytes ++ List.replicate (n - bytes.length) 0#8

/-- The bytes of a table word: bits 7..0 are the first byte, bits 15..8 the second, and so on. -/
def tableBytes (nbits w : Nat) : List Byte :=
  (List.range ((nbits + 7) / 8)).map (fun i => BitVec.ofNat 8 (w >>> (8 * i)))

/-- A table word as a statement. The table numbers frames and requests alike from one byte, and two of its words stand
for one row of each: a first byte that is an opcode parameter is read as a frame, any other as a request (DESIGN CHOICE,
log entry 10). -/
def tableStmt (c : Config) (nbits w : Nat) : Stmt :=
  match tableBytes nbits w with
  | [] => .request []
  | op :: rest =>
    match Machine.commandOf c op with
    | some k => .frame (zeroPad (shortestFrame k) (op :: rest))
    | none => .request (zeroPad (shortestRequest op) (op :: rest))

/-- The instruction the decoder reads from a table word, under the default parameters. -/
def decodeTableWord (nbits w : Nat) : Option Instr :=
  match decodeStmt Config.default (tableStmt Config.default nbits w) with
  | .ok i => some i
  | .error _ => none

end Sys2Proof
end

