-- ==== Sys2Proof/Machine/HostView.lean ====
section
/-! DEFINITION. The Host's read of the flash window: spec/20_memory.md rules R62 and R66. -/

namespace Sys2Proof.Machine

/-- The flash-relative address of a window address, if it lies in the window, rule R66. -/
def windowAddress (s : State) (x : U32) : Option Nat :=
  if x.toNat < s.cfg.FLASH_BASE.toNat ∨ s.launch.FLASH_SIZE ≤ x.toNat - s.cfg.FLASH_BASE.toNat then none
  else some (x.toNat - s.cfg.FLASH_BASE.toNat)

/-- `a` is in the target of the pending cycle, rule R62. -/
def inTarget (p : Cycle) (a : Nat) : Bool :=
  match p with
  | .none => false
  | .erase b n => decide (b ≤ a ∧ a < b + n)
  | .program ws => ws.any (fun x => decide (x.1 = a))
  | .writeSR _ => false
  | .eraseAll => true

/-- `HostRead(x)`, rule R66; the byte returned stands in HOST_BYTE (log entry 12). -/
def hostRead (x : U32) (s : State) : Host.Outcome State Fault Refusal :=
  if s.bus.FS then .next (raise .readWhileCommandMode s)
  else
    match windowAddress s x with
    | none => .refused .outsideWindow
    | some a =>
      if s.flash.BUSY ∧ inTarget s.flash.PENDING a then
        .next { drewByte s with HOST_BYTE := some (nextByte s) }
      else .next { s with HOST_BYTE := some (memRead s.flash.ARRAY a) }

end Sys2Proof.Machine
end

