-- ==== Sys2Proof/Machine/Microprogram.lean ====
section
/-! DEFINITION. The fixed microprogram, spec/10_state.md rule R25: the procedures of 42_enable_and_poll.md,
43_erase_and_program.md, 44_orchestrators.md and 45_initialization.md, flattened into labels. Each step is one internal
computation that ends in one transport call (spec/00_scope.md rule R8), in the call to the Probe (rule R134), or in the End
of spec/44_orchestrators.md rule R118 (log entry 13). -/

namespace Sys2Proof.Machine

/-! ## ENABLE, rule R106 -/

/-- `FS_SET(1)`. -/
def enableFs (o : Operation) (s : State) : State :=
  (fsSet true s).andThen (goTo (.enCs o))

/-- `CS_START()` of ISSUE(OP_WREN). -/
def enableCs (o : Operation) (s : State) : State :=
  (csStart s).andThen (goTo (.enTx o))

/-- `TX(OP_WREN)`. -/
def enableTx (o : Operation) (s : State) : State :=
  (tx s.cfg.OP_WREN s).andThen (goTo (.enGo o))

/-- `GO()`, then PHASE <- ENABLED, in the same step (DEDUCED, log entry 13). -/
def enableGo (o : Operation) (s : State) : State :=
  (go s).andThen (fun t => goTo (.frCs o) (setPhase .enabled t))

/-! ## The mutating frame, rules R114, R115, R117 and R132 -/

/-- After `k` of the operation's data bytes: the next byte, or PHASE <- ISSUED and the latch (rule R112). -/
def afterByte (o : Operation) (k : Nat) (s : State) : State :=
  need (operationData o s) s (fun ds =>
    if k < ds.length then goTo (.frData o k) s else goTo (.frGo o) (setPhase .issued s))

/-- `CS_START()`. -/
def frameCs (o : Operation) (s : State) : State :=
  (csStart s).andThen (goTo (.frOp o))

/-- TX of the opcode; WRSR has no address. -/
def frameOp (o : Operation) (s : State) : State :=
  (tx (s.cfg.opcode (operationCommand o)) s).andThen
    (fun t => if o = .unlock then afterByte o 0 t else goTo (.frAddr o) t)

/-- `TX_ADDR(ADDR)`. -/
def frameAddress (o : Operation) (s : State) : State :=
  need s.work.ADDR s (fun a => (txAddr a s).andThen (afterByte o 0))

/-- TX of data byte `k`. An index past the end of the bytes, which the microprogram never has and the spec does not speak
of, is ReadUnset (DESIGN CHOICE, log entry 28). -/
def frameData (o : Operation) (k : Nat) (s : State) : State :=
  need (operationData o s) s (fun ds =>
    need ds[k]? s (fun b => (tx b s).andThen (afterByte o (k + 1))))

/-- `GO()`, then PHASE <- LATCHED. -/
def frameGo (o : Operation) (s : State) : State :=
  (go s).andThen (fun t => goTo (.pollStart o) (setPhase .latched t))

/-! ## POLL, rule R109: the calls of an iteration -/

/-- `CS_START()` of an iteration. -/
def pollCs (o : Operation) (s : State) : State :=
  (csStart s).andThen (goTo (.pollTx o))

/-- POLLS <- 0, PHASE <- BUSY, and the first iteration. -/
def pollBegin (o : Operation) (s : State) : State :=
  pollCs o (setPhase .busy { s with work := { s.work with POLLS := some 0 } })

/-- `TX(OP_RDSR)`. -/
def pollTx (o : Operation) (s : State) : State :=
  (tx s.cfg.OP_RDSR s).andThen (goTo (.pollDelay o))

/-- `DELAY()`. -/
def pollDelay (o : Operation) (s : State) : State :=
  (delay s).andThen (goTo (.pollRx o))

/-- `STATUS <- RX()`. -/
def pollRx (o : Operation) (s : State) : State :=
  rx (fun v t => goTo (.pollTest o) (setStatus v t)) s

/-! ## INIT, rule R131 -/

/-- The ReInit check and CLK_SET; for the byte-programmable variant UNLOCK follows (rules R136, R137 and R132). -/
def initBegin (s : State) : State :=
  if s.INIT_DONE then raise .reInit s
  else
    match s.cfg.VARIANT with
    | .generic => (clkSet s.cfg.CLK_DIV_GENERIC s).andThen (goTo .initFsOn)
    | .byteProgrammable => (clkSet s.cfg.CLK_DIV_BYTE s).andThen (goTo (.enFs .unlock))

/-- "enable the flash function-select latch". -/
def initEnableFs (s : State) : State :=
  (fsSet true s).andThen (goTo .idCs)

/-- READ_ID's `CS_START()`, rule R133. -/
def readIdCs (s : State) : State :=
  (csStart s).andThen (goTo .idTx)

/-- READ_ID's `TX(OP_RDID)`. -/
def readIdTx (s : State) : State :=
  (tx s.cfg.OP_RDID s).andThen (goTo .idDelay)

/-- READ_ID's `DELAY()`. -/
def readIdDelay (s : State) : State :=
  (delay s).andThen (goTo .idRx)

/-- READ_ID's `ID <- RX_ID()`. -/
def readIdRx (s : State) : State :=
  rxId (fun ids t => goTo .idGo (setId ids t)) s

/-- READ_ID's `GO()`. -/
def readIdGo (s : State) : State :=
  (go s).andThen (goTo .initFsOff)

/-- `Emit(LogId(ID))`, then "disable the function-select latch". -/
def initDisableFs (s : State) : State :=
  need s.work.ID s (fun ids => (fsSet false (emit (.logId ids) s)).andThen (goTo .initProbe))

/-- `PROBE()` and its event, rule R134. -/
def initProbe (s : State) : State :=
  goTo .initStore (emit (.probe s.launch.PROBE_RESULT) s)

/-- The tests of the Probe's answer, the store of the geometry, and the end of INIT, rules R131 and R135. The spec does not
say in which step GEOM and INIT_DONE are written: here in the End step, with the tests before it (DESIGN CHOICE, log
entry 13). -/
def initStore (s : State) : State :=
  match s.launch.PROBE_RESULT with
  | .notFound => endWith .initError s
  | .found g =>
    if validGeometry g = false then raise .invalidGeometry s
    else endWith (.okSize g.total_size) { s with GEOM := some g, INIT_DONE := true }

/-! ## ERASE, rule R126 -/

/-- L_EDONE: FS_SET(0) exactly when ERASE_RELEASES_FS (rule R128), then end with Ok. -/
def eraseDone (s : State) : State :=
  if s.cfg.ERASE_RELEASES_FS then (fsSet false s).andThen (goTo .eraseEnd) else endWith .ok s

/-- The address of the sector visited: range check, ADDR, and the FS_SET(1) of SECTOR_ERASE's ENABLE (rules R114, R126 and
R127). -/
def eraseSector (i : I32) (s : State) : State :=
  need (sectorSize s) s (fun size =>
    match fitSectorAddress (sectorAddress i size) with
    | none => raise .addrOverflow s
    | some a => enableFs .sector { s with work := { s.work with ADDR := some a } })

/-- L_SEC: done, or Progress (rule R129) and the sector. -/
def eraseLoop (s : State) : State :=
  need s.work.SEC_I s (fun i =>
    need s.work.SEC_LAST s (fun last =>
      if pastLast i last then eraseDone s else eraseSector i (emit (.progress i) s)))

/-- The entry of ERASE. -/
def eraseBegin (s : State) : State :=
  if s.INIT_DONE = false then raise .notInitialized s
  else
    need (eraseOperands s) s (fun p =>
      eraseLoop { s with work := { s.work with SEC_I := some p.1, SEC_LAST := some p.2 } })

/-- SEC_I <- SEC_I + 1, then L_SEC. -/
def eraseNext (s : State) : State :=
  need s.work.SEC_I s (fun i =>
    eraseLoop { s with work := { s.work with SEC_I := some (i + 1#32) } })

/-! ## WRITE, rule R119 -/

/-- ADDR <- CUR and the FS_SET(1) of ENABLE: the first step of PROGRAM_PAGE and PROGRAM_BYTE. -/
def writeProgram (o : Operation) (cur : U32) (s : State) : State :=
  enableFs o { s with work := { s.work with ADDR := some cur } }

/-- L_CHUNK and L_BYTE, rules R120 and R122; with nothing left, L_DONE's FS_SET(0) (rule R124). -/
def writeLoop (s : State) : State :=
  need s.work.REM s (fun rem =>
    if rem = 0#32 then (fsSet false s).andThen (goTo .writeEnd)
    else
      need s.work.CUR s (fun cur =>
        match s.cfg.VARIANT with
        | .generic => writeProgram .page cur
            { s with work := { s.work with CHUNK := some (BitVec.ofNat 32 (chunkLength s.cfg cur rem)) } }
        | .byteProgrammable => writeProgram .byte cur s))

/-- The entry of WRITE. -/
def writeBegin (s : State) : State :=
  if s.INIT_DONE = false then raise .notInitialized s
  else
    need (writeOperands s) s (fun p =>
      writeLoop { s with work := { s.work with
        CUR := some (translate s.cfg p.1), REM := some (BitVec.ofNat 32 p.2.length), SRC := some 0 } })

/-- The bytes just programmed: the chunk, or one. -/
def programmedLength (s : State) : Option U32 :=
  match s.cfg.VARIANT with
  | .generic => s.work.CHUNK
  | .byteProgrammable => some 1#32

/-- CUR, SRC and REM advance, then the loop again. -/
def writeNext (s : State) : State :=
  need (programmedLength s) s (fun n =>
    need s.work.CUR s (fun cur =>
      need s.work.SRC s (fun src =>
        need s.work.REM s (fun rem =>
          writeLoop { s with work := { s.work with
            CUR := some (cur + n), SRC := some (src + n.toNat), REM := some (rem - n) } }))))

/-- After L_DONE's FS_SET(0): the defensive ProgramError check (rule R125), else Ok. -/
def writeFinish (s : State) : State :=
  need s.work.REM s (fun rem =>
    if s.cfg.VARIANT = .byteProgrammable ∧ rem ≠ 0#32 then endWith .programError s else endWith .ok s)

/-! ## POLL, rule R109: the tests after a status read -/

/-- POLL returns Ok: the caller goes on to its next call (rules R114, R115, R117 and R132). -/
def pollReturn (o : Operation) (s : State) : State :=
  match o with
  | .unlock => initEnableFs s
  | .sector => eraseNext s
  | .page => writeNext s
  | .byte => writeNext s

/-- POLLS + 1 and the test of STATUS: Ok, Timeout (rules R111 and R123) or another iteration. -/
def pollTest (o : Operation) (s : State) : State :=
  need s.work.STATUS s (fun v =>
    need s.work.POLLS s (fun n =>
      let t := { s with work := { s.work with POLLS := some (n + 1) } }
      if busyFlag v = false then pollReturn o (setPhase .idle t)
      else if atLimit t.cfg (n + 1) then endWith .timeout (setPhase .idle t)
      else pollCs o t))

/-! ## One step -/

/-- The step at the label pc. At HALT_IDLE there is none. -/
def microStep (s : State) : State :=
  match s.pc with
  | .haltIdle => s
  | .initEntry => initBegin s
  | .enFs o => enableFs o s
  | .enCs o => enableCs o s
  | .enTx o => enableTx o s
  | .enGo o => enableGo o s
  | .frCs o => frameCs o s
  | .frOp o => frameOp o s
  | .frAddr o => frameAddress o s
  | .frData o k => frameData o k s
  | .frGo o => frameGo o s
  | .pollStart o => pollBegin o s
  | .pollTx o => pollTx o s
  | .pollDelay o => pollDelay o s
  | .pollRx o => pollRx o s
  | .pollTest o => pollTest o s
  | .initFsOn => initEnableFs s
  | .idCs => readIdCs s
  | .idTx => readIdTx s
  | .idDelay => readIdDelay s
  | .idRx => readIdRx s
  | .idGo => readIdGo s
  | .initFsOff => initDisableFs s
  | .initProbe => initProbe s
  | .initStore => initStore s
  | .eraseEntry => eraseBegin s
  | .eraseEnd => endWith .ok s
  | .writeEntry => writeBegin s
  | .writeEnd => writeFinish s

end Sys2Proof.Machine
end

