-- ==== Sys2Proof/Machine/Fetch.lean ====
section
/-! DEFINITION. Who moves next, and the fetch of the Host's next statement: spec/00_scope.md rule R8,
spec/44_orchestrators.md rule R118, spec/60_exceptions.md rules R141 and R145. -/

namespace Sys2Proof.Machine

/-- A step that is not an instruction, or the instruction to run and the state it runs in. -/
inductive Fetched where
  | run (i : Instr) (s : State)
  | done (o : Host.Outcome State Fault Refusal)

/-- A statement of the program, taken off it: an instruction by the decoder; frame bytes that are no instruction are
sent as they are (rules R89 and R104); request bytes that are no request are no move of the Host. -/
def fetchStmt (p : Stmt) (s : State) : Fetched :=
  match p with
  | .frame bytes =>
    match decodeFrame s.cfg bytes with
    | .ok i => .run i s
    | .error _ => .done (.next (sendRaw bytes s))
  | .request bytes =>
    match decodeRequest bytes with
    | .ok i => .run i s
    | .error _ => .done (.refused .noSuchRequest)
  | .call p => .done (.next (runCall p s))
  | .read x => .done (hostRead x s)

/-- What happens in a machine that is not faulted and has no reset pending: the microprogram's step while a request is
in progress, else the program's next statement, else nothing (log entry 8). -/
def fetchMove (s : State) : Fetched :=
  match s.ACTIVE with
  | some _ => .done (.next (microStep s))
  | none =>
    match s.PROGRAM with
    | [] => .done (.next s)
    | p :: rest => fetchStmt p { s with PROGRAM := rest }

/-- A faulted machine takes no step (rule R141); a pending reset comes before every other move (log entry 11). -/
def fetch (s : State) : Fetched :=
  match s.FAULT with
  | some x => .done (.fault x)
  | none =>
    match s.RESET_LINE with
    | some e => .done (.next (applyReset e s))
    | none => fetchMove s

/-- The state in which the very next step fetches the table word `w` (log entry 10): nothing faulted, no reset pending,
no request in progress, and the word's statement in front of the program. -/
def placeWord (s : State) (nbits w : Nat) : State :=
  { s with FAULT := none, RESET_LINE := none, ACTIVE := none, PROGRAM := tableStmt s.cfg nbits w :: s.PROGRAM }

end Sys2Proof.Machine
end

