-- ==== Sys2Proof/Machine/Step.lean ====
section
/-! DEFINITION. One step of the machine, spec/00_scope.md rule R8. -/

namespace Sys2Proof.Machine

/-- The next move, an instruction through `exec`. -/
def step (s : State) : Host.Outcome State Fault Refusal :=
  match fetch s with
  | .run i t => exec i t
  | .done o => o

/-- `s` with the table word `w` as the statement the next step fetches. -/
def State.withFetchWord (s : State) (nbits w : Nat) : State :=
  placeWord s nbits w

end Sys2Proof.Machine
end

