-- ==== Sys2Proof/Safety.lean ====
section
/-! DEFINITION. What the claims speak of: the premises of spec/10_state.md rule R34 and spec/42_enable_and_poll.md rule
R110, the well-formed states, the end of a run (spec/60_exceptions.md rule R152), and the states of a conforming run
(spec/70_reset_and_hazards.md rule R159). -/

namespace Sys2Proof.Machine

/-! ## Premises -/

/-- `ProbeAgrees`, rule R34. -/
abbrev ProbeAgrees (l : Launch) (g : Geometry) : Prop :=
  l.PROBE_RESULT = .found g ∧ g.total_size.toNat = l.FLASH_SIZE ∧
  g.total_size.toNat = g.sector_count.toNat * l.FLASH_SECTOR

/-- `FlashCompletes`, rule R110, for the next `n` cycles: their busy-duration draws are finite. -/
abbrev FlashCompletes (n : Nat) (d : Draws) : Prop :=
  n ≤ d.durations.length ∧ ∀ x ∈ d.durations.take n, x ≠ .forever

/-- A machine between requests that can take the Host's next move, rules R118 and R145. -/
abbrev Idle (s : State) : Prop :=
  s.FAULT = none ∧ s.ACTIVE = none ∧ s.RESET_LINE = none

/-- The open frame, if there is one, can be ended without GO and without a fault: it is empty, or a whole RDSR frame, or
a whole RDID frame at a flash that is not busy (rules R58 and R85). -/
abbrev OpenFrameEnds (s : State) : Prop :=
  s.bus.CS = true →
    s.bus.FRAME = [] ∨ s.bus.FRAME = [s.cfg.OP_RDSR] ∨ (s.bus.FRAME = [s.cfg.OP_RDID] ∧ s.flash.BUSY = false)

/-- A frame can be opened: no fault, valid parameters, bit-bang mode, and an open frame that can be ended (rule R75). -/
abbrev CanOpen (s : State) : Prop :=
  s.FAULT = none ∧ s.cfg.Valid ∧ s.bus.FS = true ∧ OpenFrameEnds s

/-- The state after a latched mutating frame: `sent` on the wire, the events of the frame, and the cycle `p` started
with the next busy-duration draw (rule R59). -/
abbrev startedFrame (p : Cycle) (sent : List Byte) (events : List Event) (s : State) : State :=
  { s with
    draws := { s.draws with durations := s.draws.durations.tail, count := s.draws.count + 1 }
    flash := { s.flash with BUSY := true, PENDING := p, LEFT := nextDuration s }
    bus := { s.bus with CS := false, FRAME := sent, FRAME_RD := .none }
    TRACE := s.TRACE ++ events }

/-! ## Well-formed states -/

/-- Every target of a cycle is an address of the array, rules R100 and R101. -/
abbrev Cycle.inRange (size : Nat) : Cycle → Prop
  | .none => True
  | .erase a n => a + n ≤ size
  | .program ws => ∀ x ∈ ws, x.1 < size
  | .writeSR _ => True
  | .eraseAll => True

/-- The array is in its canonical form and within FLASH_SIZE, rule R33. -/
abbrev arrayWf (size : Nat) (m : Memory) : Prop :=
  m.wf ∧ ∀ x ∈ m, x.1 < size

/-- The flash device: its array, and PENDING = none exactly when BUSY = 0 (rule R37), with every target in range. -/
abbrev flashWf (size : Nat) (f : Flash) : Prop :=
  arrayWf size f.ARRAY ∧ (f.PENDING = .none ↔ f.BUSY = false) ∧ f.PENDING.inRange size

/-- Rule R19's invariant of a stored geometry. -/
abbrev geometryWf : Option Geometry → Prop
  | none => True
  | some g => 1 ≤ g.sector_count.toNat ∧ g.total_size.toNat % g.sector_count.toNat = 0

/-- The labels of INIT between its entry and the store of GEOM. -/
def inInit : Label → Bool
  | .haltIdle => false
  | .initEntry => false
  | .enFs o => decide (o = .unlock)
  | .enCs o => decide (o = .unlock)
  | .enTx o => decide (o = .unlock)
  | .enGo o => decide (o = .unlock)
  | .frCs o => decide (o = .unlock)
  | .frOp o => decide (o = .unlock)
  | .frAddr o => decide (o = .unlock)
  | .frData o _ => decide (o = .unlock)
  | .frGo o => decide (o = .unlock)
  | .pollStart o => decide (o = .unlock)
  | .pollTx o => decide (o = .unlock)
  | .pollDelay o => decide (o = .unlock)
  | .pollRx o => decide (o = .unlock)
  | .pollTest o => decide (o = .unlock)
  | .initFsOn => true
  | .idCs => true
  | .idTx => true
  | .idDelay => true
  | .idRx => true
  | .idGo => true
  | .initFsOff => true
  | .initProbe => true
  | .initStore => true
  | .eraseEntry => false
  | .eraseEnd => false
  | .writeEntry => false
  | .writeEnd => false

/-- The contents a pending power-on reset brings are an array. -/
abbrev resetWf (size : Nat) : Option ResetEvent → Prop
  | none => True
  | some .sequencer => True
  | some (.powerOn contents) => arrayWf size contents

/-- The well-formed states: the flash (rules R33, R37), the geometry (R19), INIT_DONE exactly when GEOM is set (R18,
R20), no geometry yet inside INIT (R136), and the reset input. -/
structure Wf (s : State) : Prop where
  flash : flashWf s.launch.FLASH_SIZE s.flash
  geom : geometryWf s.GEOM
  done : s.INIT_DONE = true ↔ s.GEOM ≠ none
  once : s.ACTIVE ≠ none → inInit s.pc = true → s.GEOM = none
  line : resetWf s.launch.FLASH_SIZE s.RESET_LINE

/-! ## The end of a run -/

/-- The run of a request is over, rule R152: `Res(c)` is the last event, ACTIVE is unset, and so is FAULT. -/
abbrev Over (c : Result) (s : State) : Prop :=
  s.FAULT = none ∧ s.ACTIVE = none ∧ s.RESULT = some c ∧ s.TRACE.getLast? = some (.res c)

/-! ## Calls and results -/

/-- A transport call's event, rules R73 to R81 and R84. -/
def isCall : Event → Bool
  | .req _ => false
  | .res _ => false
  | .fsSet _ => true
  | .clkSet _ => true
  | .csStart => true
  | .tx _ => true
  | .txAddr _ => true
  | .delay => true
  | .rx _ => true
  | .rxId _ => true
  | .go => true
  | .probe _ => false
  | .progress _ => false
  | .logId _ => false

/-- Rule R125: ProgramError has not been returned, and at the check that could return it nothing is left to write. -/
abbrev NoProgramError (s : State) : Prop :=
  s.RESULT ≠ some .programError ∧ Event.res .programError ∉ s.TRACE ∧
  (s.pc = .writeEnd → s.work.REM = some 0#32)

/-! ## Conforming runs, rule R159 -/

/-- The faults a conforming run can raise, rule R159's second list. -/
def allowedFault : Fault → Bool
  | .notInitialized => true
  | .reInit => true
  | .invalidGeometry => true
  | .readUnset => false
  | .addrOverflow => true
  | .outOfRange => true
  | .misaligned => true
  | .malformedFrame => false
  | .unknownOpcode => false
  | .unlatchedCommand => false
  | .noWriteEnable => false
  | .protectedArray => false
  | .commandWhileBusy => false
  | .notCommandMode => false
  | .readWhileCommandMode => true

/-- A statement of a Host that obeys rule R145: a request of rule R90 or a read of the window. -/
def hostStmt : Stmt → Bool
  | .frame _ => false
  | .request bytes =>
    match decodeRequest bytes with
    | .ok _ => true
    | .error _ => false
  | .call _ => false
  | .read _ => true

/-- Not busy, and an open frame is a whole RDSR frame in bit-bang mode: how a POLL, a request and reset leave the bus. -/
abbrev Quiet (s : State) : Prop :=
  s.flash.BUSY = false ∧ (s.bus.CS = true → s.bus.FS = true ∧ s.bus.FRAME = [s.cfg.OP_RDSR])

/-- The block protection is off after INIT, and from power-on for the generic variant (step 4 of rule R159). -/
abbrev Unlocked (s : State) : Prop :=
  s.INIT_DONE = true ∨ s.cfg.VARIANT = .generic → s.flash.PROT = false

/-- What an operation needs while it runs: the request it serves, the registers its procedures read, and (but for the
unlock) an unprotected flash. -/
abbrev Serves (o : Operation) (s : State) : Prop :=
  match o with
  | .unlock => s.ACTIVE = some .init ∧ s.INIT_DONE = false ∧ s.cfg.VARIANT = .byteProgrammable
  | .sector =>
    (eraseOperands s).isSome ∧ s.INIT_DONE = true ∧ s.flash.PROT = false ∧
    s.work.SEC_I.isSome ∧ s.work.SEC_LAST.isSome ∧ s.work.ADDR.isSome
  | .page =>
    s.cfg.VARIANT = .generic ∧ s.INIT_DONE = true ∧ s.flash.PROT = false ∧ s.work.ADDR.isSome ∧
    ∃ dest data cur rem src chunk, s.ACTIVE = some (.write dest data) ∧ s.work.CUR = some cur ∧
      s.work.REM = some rem ∧ s.work.SRC = some src ∧ s.work.CHUNK = some chunk ∧
      src + rem.toNat = data.length ∧ 1 ≤ chunk.toNat ∧ chunk.toNat ≤ rem.toNat ∧ chunk.toNat ≤ s.cfg.PAGE_SIZE
  | .byte =>
    s.cfg.VARIANT = .byteProgrammable ∧ s.INIT_DONE = true ∧ s.flash.PROT = false ∧ s.work.ADDR.isSome ∧
    ∃ dest data cur rem src, s.ACTIVE = some (.write dest data) ∧ s.work.CUR = some cur ∧
      s.work.REM = some rem ∧ s.work.SRC = some src ∧ src + rem.toNat = data.length ∧ 1 ≤ rem.toNat

/-- The frame being sent is open, holds `bytes`, and has no read window. -/
abbrev Sending (bytes : List Byte) (s : State) : Prop :=
  s.bus.FS = true ∧ s.bus.CS = true ∧ s.bus.FRAME = bytes ∧ s.bus.FRAME_RD = .none

/-- The write-enable latch is set in a flash that is not busy: what an accepted mutating frame needs. -/
abbrev Enabled (s : State) : Prop :=
  s.flash.BUSY = false ∧ s.flash.WEL = true

/-- The bytes of an operation's frame before its data: opcode, then the address if it has one. -/
def frameHead (o : Operation) (s : State) : List Byte :=
  match o with
  | .unlock => [s.cfg.OP_WRSR]
  | .sector => s.cfg.OP_SE :: addrBytes (s.work.ADDR.getD 0#32)
  | .page => s.cfg.OP_PP :: addrBytes (s.work.ADDR.getD 0#32)
  | .byte => s.cfg.OP_PP :: addrBytes (s.work.ADDR.getD 0#32)

/-- The cycle an operation has started, while it is polled: the unlock's own status write, or a cycle that leaves the
protection as it is. -/
abbrev Cycling (o : Operation) (s : State) : Prop :=
  match o with
  | .unlock => s.flash.BUSY = true ∧ s.flash.PENDING = .writeSR s.cfg.UNLOCK_SR_VALUE
  | .sector => ∀ v, s.flash.PENDING ≠ .writeSR v
  | .page => ∀ v, s.flash.PENDING ≠ .writeSR v
  | .byte => ∀ v, s.flash.PENDING ≠ .writeSR v

/-- What holds at a label of the microprogram, rule R159's argument written out. -/
def AtLabel (s : State) : Prop :=
  match s.pc with
  | .haltIdle => s.ACTIVE = none ∧ s.PHASE = .idle ∧ Quiet s ∧ Unlocked s
  | .initEntry => s.ACTIVE = some .init ∧ s.PHASE = .idle ∧ Quiet s ∧ Unlocked s
  | .enFs o => Serves o s ∧ s.PHASE = .idle ∧ Quiet s
  | .enCs o => Serves o s ∧ s.PHASE = .idle ∧ Quiet s ∧ s.bus.FS = true
  | .enTx o => Serves o s ∧ s.PHASE = .idle ∧ s.flash.BUSY = false ∧ Sending [] s
  | .enGo o => Serves o s ∧ s.PHASE = .idle ∧ s.flash.BUSY = false ∧ Sending [s.cfg.OP_WREN] s
  | .frCs o => Serves o s ∧ s.PHASE = .enabled ∧ Enabled s ∧ s.bus.FS = true ∧ s.bus.CS = false
  | .frOp o => Serves o s ∧ s.PHASE = .enabled ∧ Enabled s ∧ Sending [] s
  | .frAddr o => o ≠ .unlock ∧ Serves o s ∧ s.PHASE = .enabled ∧ Enabled s ∧
      Sending [s.cfg.opcode (operationCommand o)] s
  | .frData o k => Serves o s ∧ s.PHASE = .enabled ∧ Enabled s ∧
      ∃ ds, operationData o s = some ds ∧ k < ds.length ∧ Sending (frameHead o s ++ ds.take k) s
  | .frGo o => Serves o s ∧ s.PHASE = .issued ∧ Enabled s ∧
      ∃ ds, operationData o s = some ds ∧ Sending (frameHead o s ++ ds) s
  | .pollStart o => Serves o s ∧ s.PHASE = .latched ∧ Cycling o s ∧ s.bus.FS = true ∧ s.bus.CS = false
  | .pollTx o => Serves o s ∧ s.PHASE = .busy ∧ Cycling o s ∧ s.work.POLLS.isSome ∧ Sending [] s
  | .pollDelay o => Serves o s ∧ s.PHASE = .busy ∧ Cycling o s ∧ s.work.POLLS.isSome ∧ Sending [s.cfg.OP_RDSR] s
  | .pollRx o => Serves o s ∧ s.PHASE = .busy ∧ Cycling o s ∧ s.work.POLLS.isSome ∧ s.bus.FS = true ∧
      s.bus.CS = true ∧ s.bus.FRAME = [s.cfg.OP_RDSR] ∧ s.bus.FRAME_RD = .opened
  | .pollTest o => Serves o s ∧ s.PHASE = .busy ∧ s.work.POLLS.isSome ∧ s.bus.FS = true ∧
      s.bus.FRAME = [s.cfg.OP_RDSR] ∧ (∃ v, s.work.STATUS = some v ∧ busyFlag v = s.flash.BUSY) ∧
      (s.flash.BUSY = true → Cycling o s) ∧ (o = .unlock → s.flash.BUSY = false → s.flash.PROT = false)
  | .initFsOn => s.ACTIVE = some .init ∧ s.PHASE = .idle ∧ s.flash.PROT = false ∧ Quiet s
  | .idCs => s.ACTIVE = some .init ∧ s.PHASE = .idle ∧ s.flash.PROT = false ∧ Quiet s ∧ s.bus.FS = true
  | .idTx => s.ACTIVE = some .init ∧ s.PHASE = .idle ∧ s.flash.PROT = false ∧ s.flash.BUSY = false ∧ Sending [] s
  | .idDelay => s.ACTIVE = some .init ∧ s.PHASE = .idle ∧ s.flash.PROT = false ∧ s.flash.BUSY = false ∧
      Sending [s.cfg.OP_RDID] s
  | .idRx => s.ACTIVE = some .init ∧ s.PHASE = .idle ∧ s.flash.PROT = false ∧ s.flash.BUSY = false ∧
      s.bus.FS = true ∧ s.bus.CS = true ∧ s.bus.FRAME = [s.cfg.OP_RDID] ∧ s.bus.FRAME_RD = .opened
  | .idGo => s.ACTIVE = some .init ∧ s.PHASE = .idle ∧ s.flash.PROT = false ∧ s.flash.BUSY = false ∧
      s.bus.CS = true ∧ s.bus.FRAME = [s.cfg.OP_RDID] ∧ s.work.ID.isSome
  | .initFsOff => s.ACTIVE = some .init ∧ s.PHASE = .idle ∧ s.flash.PROT = false ∧ s.flash.BUSY = false ∧
      s.bus.CS = false ∧ s.work.ID.isSome
  | .initProbe => s.ACTIVE = some .init ∧ s.PHASE = .idle ∧ s.flash.PROT = false ∧ s.flash.BUSY = false ∧
      s.bus.CS = false
  | .initStore => s.ACTIVE = some .init ∧ s.PHASE = .idle ∧ s.flash.PROT = false ∧ s.flash.BUSY = false ∧
      s.bus.CS = false
  | .eraseEntry => (eraseOperands s).isSome ∧ s.PHASE = .idle ∧ Quiet s ∧ Unlocked s
  | .eraseEnd => s.ACTIVE ≠ none ∧ s.PHASE = .idle ∧ Quiet s ∧ Unlocked s
  | .writeEntry => (∃ dest data, s.ACTIVE = some (.write dest data) ∧ data.length < 2 ^ 32) ∧ s.PHASE = .idle ∧
      Quiet s ∧ Unlocked s
  | .writeEnd => s.work.REM = some 0#32 ∧ s.ACTIVE ≠ none ∧ s.PHASE = .idle ∧ Quiet s ∧ Unlocked s

/-- The states of a run that rule R159 speaks of: valid parameters and launch inputs, the source's unbounded poll, a
Host that obeys rule R145, a reset only between requests, and either an allowed fault or the facts of the label. -/
structure Conforms (s : State) : Prop where
  cfg : s.cfg.Valid
  unbounded : s.cfg.POLL_LIMIT = none
  launch : s.launch.Valid
  host : s.PROGRAM.all hostStmt = true
  reset : s.RESET_LINE ≠ none → s.pc = .haltIdle
  geom : s.INIT_DONE = true → (sectorSize s).isSome
  faulted : ∀ x, s.FAULT = some x → allowedFault x = true
  running : s.FAULT = none → AtLabel s

end Sys2Proof.Machine
end

