-- ==== Sys2Proof/Certificates/Slice0/Obligations.lean ====
section
/-! DEFINITION. The statements for the provers. -/

open Sys2Proof Sys2Proof.Machine

/-! ## Encoding -/

/-- Words written out from the encodings of rules R85 to R90, with their values in 95_test_vectors.md where it has
them. The byte layout of a request's operands is the model's choice (log entry 9). -/
def Obligations.KnownWordsDecode : Prop :=
  decode Config.default .frame [0x9F#8] = .ok .rdid ∧
  decode Config.default .frame [0x06#8] = .ok .wren ∧
  decode Config.default .frame [0x05#8] = .ok .rdsr ∧
  decode Config.default .frame [0xD8#8, 0x02#8, 0x00#8, 0x00#8] = .ok (.se 0x020000#32) ∧
  decode Config.default .frame [0x02#8, 0x00#8, 0x10#8, 0x00#8, 0x11#8, 0x22#8] =
    .ok (.pp 0x001000#32 [0x11#8, 0x22#8]) ∧
  decode Config.default .frame [0xC7#8] = .ok .ce ∧
  decode Config.default .frame [0x01#8, 0x1C#8] = .ok (.wrsr 0x1C#8) ∧
  decode Config.default .request [0x00#8] = .ok .init ∧
  decode Config.default .request [0x01#8, 0xFF#8, 0xFF#8, 0xFF#8, 0xFF#8, 0x00#8, 0x00#8, 0x00#8, 0x02#8] =
    .ok (.erase (BitVec.ofInt 32 (-1)) 2#32) ∧
  decode Config.default .request [0x02#8, 0x9F#8, 0x00#8, 0x00#8, 0xFE#8, 0x07#8] =
    .ok (.write 0x9F0000FE#32 [0x07#8])

/-- Decoding the encoding of a well-formed instruction gives it back, for every operand and all valid parameters.
The byte layout of a request's operands is the model's choice (log entry 9). -/
def Obligations.DecodeOfEncode : Prop :=
  ∀ (c : Config) (i : Instr), c.Valid → i.wellFormed c = true → decode c i.level (encode c i) = .ok i

/-- Every byte list that decodes is the one encoding of the instruction it gives, which is well formed and of its
level. The byte layout of a request's operands is the model's choice (log entry 9). -/
def Obligations.EncodeOfDecode : Prop :=
  ∀ (c : Config) (l : Level) (bytes : List Byte) (i : Instr), decode c l bytes = .ok i →
    encode c i = bytes ∧ i.wellFormed c = true ∧ i.level = l

/-- A frame decodes exactly when its first byte is an opcode parameter and its length fits that command's format
(rules R85 and R88); with any other first byte it is refused as an unknown opcode (rule R89). -/
def Obligations.FrameDecodesExactlyWhenItFits : Prop :=
  ∀ (c : Config) (op : Byte) (rest : List Byte), c.Valid →
    ((∃ i, decode c .frame (op :: rest) = .ok i) ↔
      (op ∈ [c.OP_RDID, c.OP_WREN, c.OP_RDSR, c.OP_CE] ∧ rest.length = 0) ∨
      (op = c.OP_SE ∧ rest.length = 3) ∨
      (op = c.OP_WRSR ∧ rest.length = 1) ∨
      (op = c.OP_PP ∧ 4 ≤ rest.length ∧ rest.length ≤ 3 + c.PAGE_SIZE ∧
        (c.VARIANT = .byteProgrammable → rest.length = 4))) ∧
    (decode c .frame (op :: rest) = .error .unknownOpcode ↔
      op ∉ [c.OP_RDID, c.OP_WREN, c.OP_RDSR, c.OP_SE, c.OP_PP, c.OP_CE, c.OP_WRSR])

/-! ## Who moves -/

/-- Between requests, the next statement of the program, if it decodes to an instruction, is run by `exec`, in the
state with the statement taken off the program. That the Host's statements stand in PROGRAM is the model's choice (log
entry 8). -/
def Obligations.StepRunsTheDecodedInstruction : Prop :=
  ∀ (s : State) (p : Stmt) (rest : List Stmt) (i : Instr), Idle s → s.PROGRAM = p :: rest →
    decodeStmt s.cfg p = .ok i → step s = exec i { s with PROGRAM := rest }

/-- The other moves: a request's own steps, a reset, nothing to do, transport calls, window reads and frames that do
not decode. PROGRAM and RESET_LINE, and that a reset goes first, are the model's choice (log entries 8 and 11); so
is what becomes of bytes that do not decode, the last two clauses (log entry 18). -/
def Obligations.StepMovesOneAgent : Prop :=
  ∀ s : State, s.FAULT = none →
    (∀ e, s.RESET_LINE = some e → step s = .next (applyReset e s)) ∧
    (s.RESET_LINE = none → s.ACTIVE ≠ none → step s = .next (microStep s)) ∧
    (s.RESET_LINE = none → s.ACTIVE = none → s.PROGRAM = [] → step s = .next s) ∧
    (∀ p rest, s.RESET_LINE = none → s.ACTIVE = none → s.PROGRAM = .call p :: rest →
      step s = .next (runCall p { s with PROGRAM := rest })) ∧
    (∀ x rest, s.RESET_LINE = none → s.ACTIVE = none → s.PROGRAM = .read x :: rest →
      step s = hostRead x { s with PROGRAM := rest }) ∧
    (∀ bytes rest e, s.RESET_LINE = none → s.ACTIVE = none → s.PROGRAM = .frame bytes :: rest →
      decode s.cfg .frame bytes = .error e → step s = .next (sendRaw bytes { s with PROGRAM := rest })) ∧
    (∀ bytes rest e, s.RESET_LINE = none → s.ACTIVE = none → s.PROGRAM = .request bytes :: rest →
      decode s.cfg .request bytes = .error e → step s = .refused .noSuchRequest)

/-- A faulted machine takes no step and runs no instruction: FAULT is sticky and the machine quiescent (rules
R26 and R141). That the step answers the fault is the model's form of it (log entry 1). -/
def Obligations.FaultIsSticky : Prop :=
  ∀ (s : State) (x : Fault), s.FAULT = some x → step s = .fault x ∧ ∀ i, exec i s = .fault x

/-! ## The transport primitives -/

/-- Rule R73, with the raw write of `zext_32(v)` to SPI_FS. -/
def Obligations.FsSetWritesFunctionSelect : Prop :=
  ∀ s : State, s.FAULT = none →
    runCall (.fs true) s =
      { s with bus := { s.bus with FS := true, SPI_FS_OTHER := 0#31 }, TRACE := s.TRACE ++ [.fsSet true] } ∧
    (s.bus.CS = false → runCall (.fs false) s =
      { s with bus := { s.bus with FS := false, SPI_FS_OTHER := 0#31 }, TRACE := s.TRACE ++ [.fsSet false] }) ∧
    (s.bus.CS = true → (frameEnd false s).FAULT = none → runCall (.fs false) s =
      { frameEnd false s with
        bus := { (frameEnd false s).bus with CS := false, FS := false, SPI_FS_OTHER := 0#31 }
        TRACE := (frameEnd false s).TRACE ++ [.fsSet false] }) ∧
    (s.bus.CS = true → (frameEnd false s).FAULT ≠ none → runCall (.fs false) s = frameEnd false s)

/-- Rule R74. -/
def Obligations.ClkSetWritesTheDivisor : Prop :=
  ∀ (s : State) (d : U32), runCall (.clk d) s =
      { s with bus := { s.bus with CLKDIV := d }, TRACE := s.TRACE ++ [.clkSet d] } ∧
    runCall (.clk d) s = emit (.clkSet d) { s with bus := regWr .spiClock d s.bus }

/-- Rule R75. -/
def Obligations.CsStartOpensAFrame : Prop :=
  ∀ s : State, s.FAULT = none →
    (s.bus.FS = false → runCall .cs s = { s with FAULT := some .notCommandMode }) ∧
    (s.bus.FS = true → s.bus.CS = false → runCall .cs s =
      { s with bus := { s.bus with CS := true, FRAME := [], FRAME_RD := .none }, TRACE := s.TRACE ++ [.csStart] }) ∧
    (s.bus.FS = true → s.bus.CS = true → (frameEnd false s).FAULT = none → runCall .cs s =
      { frameEnd false s with
        bus := { (frameEnd false s).bus with CS := true, FRAME := [], FRAME_RD := .none }
        TRACE := (frameEnd false s).TRACE ++ [.csStart] }) ∧
    (s.bus.FS = true → s.bus.CS = true → (frameEnd false s).FAULT ≠ none → runCall .cs s = frameEnd false s)

/-- Rule R76. -/
def Obligations.TxAppendsOneByte : Prop :=
  ∀ (s : State) (b : Byte), runCall (.tx b) s =
    if s.bus.CS = false ∨ s.bus.FRAME_RD ≠ .none then { s with FAULT := some .malformedFrame }
    else { s with bus := { s.bus with FRAME := s.bus.FRAME ++ [b] }, TRACE := s.TRACE ++ [.tx b] }

/-- Rule R77: the three bytes are the address's base-256 digits, most significant first. -/
def Obligations.TxAddrAppendsThreeBytes : Prop :=
  ∀ (s : State) (a : U32), runCall (.txa a) s =
    if 2 ^ 24 ≤ a.toNat then { s with FAULT := some .addrOverflow }
    else if s.bus.CS = false ∨ s.bus.FRAME_RD ≠ .none then { s with FAULT := some .malformedFrame }
    else { s with
      bus := { s.bus with FRAME := s.bus.FRAME ++
        [BitVec.ofNat 8 (a.toNat / 2 ^ 16), BitVec.ofNat 8 (a.toNat / 2 ^ 8), BitVec.ofNat 8 a.toNat] }
      TRACE := s.TRACE ++ [.txAddr (BitVec.ofNat 24 a.toNat)] }

/-- Rule R78. -/
def Obligations.DelayOpensTheReadWindow : Prop :=
  ∀ s : State, runCall .delay s =
    if s.bus.CS = false ∨ s.bus.FRAME_RD ≠ .none then { s with FAULT := some .malformedFrame }
    else { s with bus := { s.bus with FRAME_RD := .opened }, TRACE := s.TRACE ++ [.delay] }

/-- Rule R79. -/
def Obligations.RxReadsTheStatusByte : Prop :=
  ∀ s : State, runCall .rx s =
    if s.bus.CS = false ∨ s.bus.FRAME ≠ [s.cfg.OP_RDSR] ∨ s.bus.FRAME_RD ≠ .opened then
      { s with FAULT := some .malformedFrame }
    else { (statusRead s).2 with
      bus := { s.bus with RESP := [(statusRead s).1], FRAME_RD := .done }
      TRACE := s.TRACE ++ [.rx (statusRead s).1] }

/-- Rule R80: RDID_LEN bytes, about whose values nothing is said. -/
def Obligations.RxIdReadsDrawnBytes : Prop :=
  ∀ s : State,
    (s.bus.CS = false ∨ s.bus.FRAME ≠ [s.cfg.OP_RDID] ∨ s.bus.FRAME_RD ≠ .opened →
      runCall .rxid s = { s with FAULT := some .malformedFrame }) ∧
    (s.bus.CS = true → s.bus.FRAME = [s.cfg.OP_RDID] → s.bus.FRAME_RD = .opened → s.flash.BUSY = true →
      runCall .rxid s = { s with FAULT := some .commandWhileBusy }) ∧
    (s.bus.CS = true → s.bus.FRAME = [s.cfg.OP_RDID] → s.bus.FRAME_RD = .opened → s.flash.BUSY = false →
      ∃ ids draws, ids.length = s.cfg.RDID_LEN ∧ runCall .rxid s = { s with
        draws := draws
        bus := { s.bus with RESP := ids, FRAME_RD := .done }
        TRACE := s.TRACE ++ [.rxId ids] })

/-- Rule R81. -/
def Obligations.GoEndsTheFrameLatched : Prop :=
  ∀ s : State, s.FAULT = none →
    (s.bus.CS = false → runCall .go s = { s with FAULT := some .malformedFrame }) ∧
    (s.bus.CS = true → (frameEnd true s).FAULT = none → runCall .go s = { frameEnd true s with
      bus := { (frameEnd true s).bus with CS := false }
      TRACE := (frameEnd true s).TRACE ++ [.go] }) ∧
    (s.bus.CS = true → (frameEnd true s).FAULT ≠ none → runCall .go s = frameEnd true s)

/-! ## The flash -/

/-- The checks of rule R58 in their order (rule R142), each with its fault; where none applies, the effect of the
command the first byte names. -/
def Obligations.FrameEndChecksInOrder : Prop :=
  ∀ (s : State) (op : Byte) (rest : List Byte) (latched : Bool), s.cfg.Valid → s.bus.FRAME = op :: rest →
    frameEnd latched s =
      if s.flash.BUSY = true ∧ op ≠ s.cfg.OP_RDSR then raise .commandWhileBusy s
      else if op ∉ [s.cfg.OP_RDID, s.cfg.OP_WREN, s.cfg.OP_RDSR, s.cfg.OP_SE, s.cfg.OP_PP, s.cfg.OP_CE,
          s.cfg.OP_WRSR] then raise .unknownOpcode s
      else if op ∈ [s.cfg.OP_WREN, s.cfg.OP_SE, s.cfg.OP_PP, s.cfg.OP_CE, s.cfg.OP_WRSR] ∧ latched = false then
        raise .unlatchedCommand s
      else if op ∈ [s.cfg.OP_SE, s.cfg.OP_PP, s.cfg.OP_CE, s.cfg.OP_WRSR] ∧ s.flash.WEL = false then
        raise .noWriteEnable s
      else if op ∈ [s.cfg.OP_SE, s.cfg.OP_PP, s.cfg.OP_CE] ∧ s.flash.PROT = true then raise .protectedArray s
      else if op ∈ [s.cfg.OP_RDID, s.cfg.OP_RDSR] ∧ s.bus.FRAME.length ≠ 1 then raise .malformedFrame s
      else if op ∉ [s.cfg.OP_RDID, s.cfg.OP_RDSR] ∧ s.bus.FRAME_RD ≠ .none then raise .malformedFrame s
      else if op = s.cfg.OP_WREN then frameEffect .wren s
      else if op = s.cfg.OP_SE then frameEffect .se s
      else if op = s.cfg.OP_PP then frameEffect .pp s
      else if op = s.cfg.OP_CE then frameEffect .ce s
      else if op = s.cfg.OP_WRSR then frameEffect .wrsr s
      else s

/-- What the completion of a cycle does to the device and the array, rules R60 and R61. A programmed byte whose target
is not erased is left open: it takes a drawn value. -/
def Obligations.CompletionActsOnTheArray : Prop :=
  ∀ s : State, s.flash.ARRAY.wf →
    (complete s).flash.WEL = false ∧ (complete s).flash.BUSY = false ∧ (complete s).flash.PENDING = .none ∧
    (complete s).flash.ARRAY.wf ∧
    (∀ a n, s.flash.PENDING = .erase a n → ∀ b, memRead (complete s).flash.ARRAY b =
      if a ≤ b ∧ b < a + n then 0xFF#8 else memRead s.flash.ARRAY b) ∧
    (s.flash.PENDING = .eraseAll → ∀ b, memRead (complete s).flash.ARRAY b =
      if b < s.launch.FLASH_SIZE then 0xFF#8 else memRead s.flash.ARRAY b) ∧
    (∀ ws, s.flash.PENDING = .program ws →
      (∀ b, (∀ x ∈ ws, x.1 ≠ b) → memRead (complete s).flash.ARRAY b = memRead s.flash.ARRAY b) ∧
      ((ws.map (·.1)).Nodup → ∀ x ∈ ws, memRead s.flash.ARRAY x.1 = 0xFF#8 →
        memRead (complete s).flash.ARRAY x.1 = x.2)) ∧
    (∀ v, s.flash.PENDING = .writeSR v → (complete s).flash.ARRAY = s.flash.ARRAY ∧
      (v = s.cfg.UNLOCK_SR_VALUE → (complete s).flash.PROT = false)) ∧
    ((∀ v, s.flash.PENDING ≠ .writeSR v) → (complete s).flash.PROT = s.flash.PROT)

/-- `StatusRead()`, rule R63: when it completes the cycle, what bit 0 says, and what LEFT becomes. -/
def Obligations.StatusReadCountsDown : Prop :=
  ∀ s : State,
    (s.flash.BUSY = true → s.flash.LEFT = .reads 0 →
      (statusRead s).1.getLsbD 0 = false ∧ (statusRead s).2.flash = (complete s).flash) ∧
    (∀ n, s.flash.BUSY = true → s.flash.LEFT = .reads (n + 1) →
      (statusRead s).1.getLsbD 0 = true ∧ (statusRead s).2.flash = { s.flash with LEFT := .reads n }) ∧
    (s.flash.BUSY = true → s.flash.LEFT = .forever →
      (statusRead s).1.getLsbD 0 = true ∧ (statusRead s).2.flash = s.flash) ∧
    (s.flash.BUSY = false → (statusRead s).1.getLsbD 0 = false ∧ (statusRead s).2.flash = s.flash)

/-- `PageTarget`, rule R105: its value, in the page of `a`, and no wrap where the run fits the page; each data byte of a
PP frame has its page target, and the targets of at most PAGE_SIZE bytes are pairwise distinct (rule R101). -/
def Obligations.PageTargetsStayInThePage : Prop :=
  (∀ p a k : Nat, 1 ≤ p →
    pageTarget p a k = (a - a % p) + (a % p + k) % p ∧
    pageTarget p a k / p = a / p ∧
    (a % p + k < p → pageTarget p a k = a + k)) ∧
  (∀ (p a : Nat) (ds : List Byte), ds.length ≤ p →
    ((programCells p a 0 ds).map (·.1)).Nodup ∧
    ∀ k, (h : k < ds.length) → (programCells p a 0 ds)[k]? = some (pageTarget p a k, ds[k]))

/-! ## The seven frames -/

/-- WREN, rule R98. -/
def Obligations.WrenSetsTheLatch : Prop :=
  ∀ s : State, CanOpen s → s.flash.BUSY = false →
    exec .wren s = .next { s with
      flash := { s.flash with WEL := true }
      bus := { s.bus with CS := false, FRAME := [s.cfg.OP_WREN], FRAME_RD := .none }
      TRACE := s.TRACE ++ [.csStart, .tx s.cfg.OP_WREN, .go] }

/-- RDID, rule R97: RDID_LEN bytes, about whose values nothing is said; the flash is unchanged. -/
def Obligations.RdidReadsTheId : Prop :=
  ∀ s : State, CanOpen s → s.flash.BUSY = false → ∃ ids draws, ids.length = s.cfg.RDID_LEN ∧
    exec .rdid s = .next { s with
      draws := draws
      work := { s.work with ID := some ids }
      bus := { s.bus with CS := false, FRAME := [s.cfg.OP_RDID], FRAME_RD := .done, RESP := ids }
      TRACE := s.TRACE ++ [.csStart, .tx s.cfg.OP_RDID, .delay, .rxId ids, .go] }

/-- RDSR, rules R99 and R63: the status byte's bit 0 is BUSY after the read, bits [7:1] are left open, the flash changes
only by the countdown or the completion, and the frame stays open. -/
def Obligations.RdsrReadsTheStatus : Prop :=
  ∀ s : State, CanOpen s → ∃ v flash draws, v.getLsbD 0 = flash.BUSY ∧
    (s.flash.BUSY = false → flash = s.flash) ∧
    (s.flash.BUSY = true → s.flash.LEFT = .reads 0 → flash = (complete s).flash) ∧
    (∀ n, s.flash.BUSY = true → s.flash.LEFT = .reads (n + 1) → flash = { s.flash with LEFT := .reads n }) ∧
    (s.flash.BUSY = true → s.flash.LEFT = .forever → flash = s.flash) ∧
    exec .rdsr s = .next { s with
      draws := draws
      flash := flash
      work := { s.work with STATUS := some v }
      bus := { s.bus with CS := true, FRAME := [s.cfg.OP_RDSR], FRAME_RD := .done, RESP := [v] }
      TRACE := s.TRACE ++ [.csStart, .tx s.cfg.OP_RDSR, .delay, .rx v] }

/-- SE, rule R100. -/
def Obligations.SeStartsAnErase : Prop :=
  ∀ (s : State) (a : U32), CanOpen s → s.flash.BUSY = false → s.flash.WEL = true → s.flash.PROT = false →
    a.toNat < 2 ^ 24 → a.toNat % s.launch.FLASH_SECTOR = 0 →
    a.toNat + s.launch.FLASH_SECTOR ≤ s.launch.FLASH_SIZE →
    exec (.se a) s = .next (startedFrame (.erase a.toNat s.launch.FLASH_SECTOR)
      (s.cfg.OP_SE :: addrBytes a)
      [.csStart, .tx s.cfg.OP_SE, .txAddr (BitVec.ofNat 24 a.toNat), .go] s)

/-- PP, rules R101 and R105: every data byte with its page target. -/
def Obligations.PpStartsAProgram : Prop :=
  ∀ (s : State) (a : U32) (ds : List Byte), CanOpen s → s.flash.BUSY = false → s.flash.WEL = true →
    s.flash.PROT = false → a.toNat < 2 ^ 24 → 1 ≤ ds.length → ds.length ≤ s.cfg.PAGE_SIZE →
    (s.cfg.VARIANT = .byteProgrammable → ds.length = 1) →
    (∀ k, k < ds.length → pageTarget s.cfg.PAGE_SIZE a.toNat k < s.launch.FLASH_SIZE) →
    exec (.pp a ds) s = .next (startedFrame (.program (programCells s.cfg.PAGE_SIZE a.toNat 0 ds))
      (s.cfg.OP_PP :: (addrBytes a ++ ds))
      ([.csStart, .tx s.cfg.OP_PP, .txAddr (BitVec.ofNat 24 a.toNat)] ++ ds.map Event.tx ++ [.go]) s)

/-- CE, rule R102. -/
def Obligations.CeStartsAChipErase : Prop :=
  ∀ s : State, CanOpen s → s.flash.BUSY = false → s.flash.WEL = true → s.flash.PROT = false →
    exec .ce s = .next (startedFrame .eraseAll [s.cfg.OP_CE] [.csStart, .tx s.cfg.OP_CE, .go] s)

/-- WRSR, rule R103: not subject to the protection. -/
def Obligations.WrsrStartsAStatusWrite : Prop :=
  ∀ (s : State) (v : Byte), CanOpen s → s.flash.BUSY = false → s.flash.WEL = true →
    exec (.wrsr v) s = .next (startedFrame (.writeSR v) [s.cfg.OP_WRSR, v]
      [.csStart, .tx s.cfg.OP_WRSR, .tx v, .go] s)

/-- Where mutating frames trap for want of the latch or for protection, rules R58 and R142: the fault is recorded, the
flash is as before, and GO's event is not emitted. -/
def Obligations.MutatingFramesNeedLatchAndUnlock : Prop :=
  ∀ (s : State), CanOpen s → s.flash.BUSY = false →
    (∀ i, i = .ce ∨ (∃ v, i = .wrsr v) ∨ (∃ a, i = .se a ∧ a.toNat < 2 ^ 24) ∨
        (∃ a ds, i = .pp a ds ∧ a.toNat < 2 ^ 24) → s.flash.WEL = false →
      ∃ t, exec i s = .next t ∧ t.FAULT = some .noWriteEnable ∧ t.flash = s.flash ∧
        .go ∉ t.TRACE.drop s.TRACE.length) ∧
    (∀ i, i = .ce ∨ (∃ a, i = .se a ∧ a.toNat < 2 ^ 24) ∨ (∃ a ds, i = .pp a ds ∧ a.toNat < 2 ^ 24) →
      s.flash.WEL = true → s.flash.PROT = true →
      ∃ t, exec i s = .next t ∧ t.FAULT = some .protectedArray ∧ t.flash = s.flash ∧
        .go ∉ t.TRACE.drop s.TRACE.length)

/-- Where SE and PP trap on their operands, rules R77, R100, R101 and R116: the fault is recorded and the flash is as
before. That a byte-programmable PP of other than one byte is malformed before its targets are looked at is the model's
reading (log entry 25). -/
def Obligations.SeAndPpCheckTheirOperands : Prop :=
  ∀ (s : State) (a : U32) (ds : List Byte), CanOpen s → s.flash.BUSY = false → s.flash.WEL = true →
    s.flash.PROT = false →
    ∃ t u, exec (.se a) s = .next t ∧ exec (.pp a ds) s = .next u ∧
      (2 ^ 24 ≤ a.toNat →
        t.FAULT = some .addrOverflow ∧ t.flash = s.flash ∧ t.bus.FRAME = [s.cfg.OP_SE] ∧
        u.FAULT = some .addrOverflow ∧ u.flash = s.flash ∧ u.bus.FRAME = [s.cfg.OP_PP]) ∧
      (a.toNat < 2 ^ 24 → a.toNat % s.launch.FLASH_SECTOR ≠ 0 → t.FAULT = some .misaligned ∧ t.flash = s.flash) ∧
      (a.toNat < 2 ^ 24 → a.toNat % s.launch.FLASH_SECTOR = 0 →
        s.launch.FLASH_SIZE < a.toNat + s.launch.FLASH_SECTOR → t.FAULT = some .outOfRange ∧ t.flash = s.flash) ∧
      (a.toNat < 2 ^ 24 →
        ds = [] ∨ s.cfg.PAGE_SIZE < ds.length ∨ (s.cfg.VARIANT = .byteProgrammable ∧ ds.length ≠ 1) →
        u.FAULT = some .malformedFrame ∧ u.flash = s.flash) ∧
      (a.toNat < 2 ^ 24 → 1 ≤ ds.length → ds.length ≤ s.cfg.PAGE_SIZE →
        (s.cfg.VARIANT = .byteProgrammable → ds.length = 1) →
        (∃ k, k < ds.length ∧ s.launch.FLASH_SIZE ≤ pageTarget s.cfg.PAGE_SIZE a.toNat k) →
        u.FAULT = some .outOfRange ∧ u.flash = s.flash)

/-- Where any frame traps: outside bit-bang mode every frame meets NotCommandMode and nothing else happens (rule R75). At
a busy flash every frame but RDSR, whatever data bytes it has, meets CommandWhileBusy and the cycle goes on undisturbed
(rules R58, R80 and R142), unless its address does not fit and TX_ADDR faults first (rule R77). -/
def Obligations.FramesNeedModeAndIdleFlash : Prop :=
  ∀ (s : State) (i : Instr), i.level = .frame →
    (s.FAULT = none → s.bus.FS = false → exec i s = .next { s with FAULT := some .notCommandMode }) ∧
    (CanOpen s → s.flash.BUSY = true → i ≠ .rdsr →
      ∃ t, exec i s = .next t ∧ t.flash = s.flash ∧
        ((∀ a, i = .se a → a.toNat < 2 ^ 24) → (∀ a ds, i = .pp a ds → a.toNat < 2 ^ 24) →
          t.FAULT = some .commandWhileBusy) ∧
        ((∃ a, i = .se a ∧ 2 ^ 24 ≤ a.toNat) ∨ (∃ a ds, i = .pp a ds ∧ 2 ^ 24 ≤ a.toNat) →
          t.FAULT = some .addrOverflow))

/-- Bytes that are no frame: sent as they are to an idle, enabled and unprotected flash they meet UnknownOpcode or
MalformedFrame, by what the decoder says of them, and change nothing in the flash (rules R89, R104 and R116). That they
are sent by CS_START, one TX a byte and GO is the model's choice (log entry 18), and so is R116's check before
the range check (log entry 25). -/
def Obligations.UndecodableFramesFault : Prop :=
  ∀ (s : State) (bytes : List Byte) (e : DecodeError), CanOpen s → s.flash.BUSY = false → s.flash.WEL = true →
    s.flash.PROT = false → decode s.cfg .frame bytes = .error e →
    (sendRaw bytes s).flash = s.flash ∧
    (e = .unknownOpcode → (sendRaw bytes s).FAULT = some .unknownOpcode) ∧
    (e = .malformedFrame → (sendRaw bytes s).FAULT = some .malformedFrame) ∧
    (e = .empty → bytes = [] ∧ (sendRaw bytes s).FAULT = none)

/-- What a frame's meaning puts on the wire is the instruction's encoding, in one frame (rules R84, R85 and R93). -/
def Obligations.WireBytesAreTheEncoding : Prop :=
  ∀ (s t : State) (i : Instr), i.level = .frame → exec i s = .next t → t.FAULT = none →
    ∃ events, t.TRACE = s.TRACE ++ events ∧ wireFrames events = [[], encode s.cfg i]

/-! ## Requests -/

/-- The lifecycle of rule R118: the Start step of the three requests, what "end with c" does, the End steps of ERASE and
WRITE after their FS_SET(0), and that a request while another is in progress is not admitted (rule R92; that it is a
refusal: log entry 19). -/
def Obligations.RequestLifecycle : Prop :=
  ∀ s : State, s.FAULT = none →
    (s.ACTIVE = none →
      exec .init s = .next { s with
        ACTIVE := some .init, work := Work.unset, TRACE := s.TRACE ++ [.req .init], pc := .initEntry } ∧
      (∀ first last, exec (.erase first last) s = .next { s with
        ACTIVE := some (.erase first last), work := Work.unset
        TRACE := s.TRACE ++ [.req (.erase first last)], pc := .eraseEntry }) ∧
      (∀ dest data, data.length < 2 ^ 32 → exec (.write dest data) s = .next { s with
        ACTIVE := some (.write dest data), work := Work.unset
        TRACE := s.TRACE ++ [.req (.write dest data)], pc := .writeEntry })) ∧
    (s.ACTIVE ≠ none → ∀ i, i.level = .request → exec i s = .refused .notAdmitted) ∧
    (∀ c, endWith c s = { s with
      TRACE := s.TRACE ++ [.res c], RESULT := some c, ACTIVE := none, PHASE := .idle, pc := .haltIdle }) ∧
    (s.RESET_LINE = none → s.ACTIVE ≠ none →
      (s.pc = .eraseEnd → step s = .next (endWith .ok s)) ∧
      (s.pc = .writeEnd → s.work.REM = some 0#32 → step s = .next (endWith .ok s)))

/-- The order checks: ERASE and WRITE before INIT meet NotInitialized, INIT after INIT meets ReInit, and nothing is
sent (rules R20, R136 and R142). -/
def Obligations.RequestOrderIsChecked : Prop :=
  ∀ s : State, s.FAULT = none → s.RESET_LINE = none → s.ACTIVE ≠ none →
    (s.INIT_DONE = false → s.pc = .eraseEntry ∨ s.pc = .writeEntry →
      step s = .next { s with FAULT := some .notInitialized }) ∧
    (s.INIT_DONE = true → s.pc = .initEntry → step s = .next { s with FAULT := some .reInit })

/-- INIT of the generic variant, rule R131, from its Start step to `Res`: ten steps, with its whole trace. What falls
into one step follows rules R8 and R118 as log entry 13 reads them. -/
def Obligations.InitOfGenericCompletes : Prop :=
  ∀ (s : State) (g : Geometry), Idle s → s.cfg.Valid → s.cfg.VARIANT = .generic → s.INIT_DONE = false →
    OpenFrameEnds s → s.flash.BUSY = false → s.launch.PROBE_RESULT = .found g → validGeometry g = true →
    ∃ u t ids, exec .init s = .next u ∧ Sys2Proof.core.run 10 u = .next t ∧ ids.length = s.cfg.RDID_LEN ∧
      Over (.okSize g.total_size) t ∧ t.GEOM = some g ∧ t.INIT_DONE = true ∧ t.flash = s.flash ∧
      t.bus.FS = false ∧ t.bus.CS = false ∧ t.bus.CLKDIV = s.cfg.CLK_DIV_GENERIC ∧
      t.TRACE = s.TRACE ++ [.req .init, .clkSet s.cfg.CLK_DIV_GENERIC, .fsSet true, .csStart, .tx s.cfg.OP_RDID,
        .delay, .rxId ids, .go, .logId ids, .fsSet false, .probe (.found g), .res (.okSize g.total_size)]

/-- The probe's other answers, rules R131, R134 and R135: NotFound ends INIT with InitError and leaves GEOM unset and
INIT_DONE false; a geometry that is not valid faults. Step counts follow log entry 13. -/
def Obligations.InitHandlesTheProbe : Prop :=
  ∀ s : State, s.FAULT = none → s.RESET_LINE = none → s.ACTIVE ≠ none → s.pc = .initProbe →
    (s.launch.PROBE_RESULT = .notFound → s.GEOM = none → s.INIT_DONE = false →
      ∃ t, Sys2Proof.core.run 2 s = .next t ∧ Over .initError t ∧ t.GEOM = none ∧ t.INIT_DONE = false ∧
        t.flash = s.flash ∧ t.TRACE = s.TRACE ++ [.probe .notFound, .res .initError]) ∧
    (∀ g : Geometry, s.launch.PROBE_RESULT = .found g →
      ¬ (1 ≤ g.sector_count.toNat ∧ 1 ≤ g.total_size.toNat ∧ g.total_size.toNat ≤ 2 ^ 24 ∧
        g.total_size.toNat % g.sector_count.toNat = 0) →
      Sys2Proof.core.run 2 s = .next { s with
        TRACE := s.TRACE ++ [.probe (.found g)], pc := .initStore, FAULT := some .invalidGeometry })

/-- INIT of the byte-programmable variant, rules R131 and R132: where the unlock's cycle is finite, INIT ends with Ok,
the protection is off and the array is as before. -/
def Obligations.InitOfByteProgrammableUnlocks : Prop :=
  ∀ (s : State) (g : Geometry) (n : Nat), Idle s → s.cfg.Valid → s.cfg.VARIANT = .byteProgrammable →
    s.cfg.POLL_LIMIT = none → s.INIT_DONE = false → OpenFrameEnds s → s.flash.BUSY = false →
    nextDuration s = .reads n → s.launch.PROBE_RESULT = .found g → validGeometry g = true →
    ∃ u k t, exec .init s = .next u ∧ Sys2Proof.core.run k u = .next t ∧ Over (.okSize g.total_size) t ∧
      t.GEOM = some g ∧ t.INIT_DONE = true ∧ t.flash.PROT = false ∧ t.flash.BUSY = false ∧
      t.flash.ARRAY = s.flash.ARRAY ∧ t.bus.FS = false ∧ t.bus.CLKDIV = s.cfg.CLK_DIV_BYTE

/-- ENABLE, rule R106: its four steps, its trace, and the latch set. That a step is one call (rules R8 and R118), and that
PHASE <- ENABLED (rule R112) stands in the step of ENABLE's GO and not in the next, is log entry 13. -/
def Obligations.EnableSetsTheLatch : Prop :=
  ∀ (s : State) (o : Operation), s.FAULT = none → s.RESET_LINE = none → s.ACTIVE ≠ none → s.cfg.Valid →
    OpenFrameEnds s → s.flash.BUSY = false → s.pc = .enFs o →
    Sys2Proof.core.run 4 s = .next { s with
      pc := .frCs o
      PHASE := .enabled
      flash := { s.flash with WEL := true }
      bus := { s.bus with
        FS := true, SPI_FS_OTHER := 0#31, CS := false, FRAME := [s.cfg.OP_WREN], FRAME_RD := .none }
      TRACE := s.TRACE ++ [.fsSet true, .csStart, .tx s.cfg.OP_WREN, .go] }

/-- The number of status reads is exact, rules R109 and R113: a cycle with LEFT = n is polled with n + 1 reads, four
steps each (log entry 13); then the cycle is complete, and the next step counts the last read and returns. -/
def Obligations.PollReadsExactly : Prop :=
  ∀ (s : State) (o : Operation) (n : Nat), s.FAULT = none → s.RESET_LINE = none → s.ACTIVE ≠ none → s.cfg.Valid →
    s.cfg.POLL_LIMIT = none → s.bus.FS = true → OpenFrameEnds s → s.flash.BUSY = true →
    s.flash.LEFT = .reads n → s.pc = .pollStart o →
    ∃ t, Sys2Proof.core.run (4 * (n + 1)) s = .next t ∧ t.FAULT = none ∧ t.pc = .pollTest o ∧
      t.work.POLLS = some n ∧ t.flash.BUSY = false ∧ t.flash.PENDING = .none ∧ t.flash.WEL = false ∧
      t.bus.CS = true ∧ t.bus.FRAME = [s.cfg.OP_RDSR] ∧
      step t = .next (pollReturn o { t with PHASE := .idle, work := { t.work with POLLS := some (n + 1) } })

/-- The hang, rule R110: a cycle that never ends is polled forever; after any number of iterations the request is still
in progress, with no result and the flash busy. Step counts follow log entry 13. -/
def Obligations.PollNeverEnds : Prop :=
  ∀ (s : State) (o : Operation), s.FAULT = none → s.RESET_LINE = none → s.ACTIVE ≠ none → s.cfg.Valid →
    s.cfg.POLL_LIMIT = none → s.bus.FS = true → OpenFrameEnds s → s.flash.BUSY = true →
    s.flash.LEFT = .forever → s.pc = .pollStart o →
    ∀ m, ∃ t v, Sys2Proof.core.run (4 * (m + 1)) s = .next t ∧ t.FAULT = none ∧ t.pc = .pollTest o ∧
      t.work.POLLS = some m ∧ t.work.STATUS = some v ∧ v.getLsbD 0 = true ∧ t.ACTIVE = s.ACTIVE ∧
      t.RESULT = s.RESULT ∧ t.flash = s.flash

/-- Bounded mode, rules R111 and R123: after POLL_LIMIT status reads that all showed busy the request ends with Timeout,
FS stays 1, the last RDSR frame stays open, and the flash is still busy. Step counts follow log entry 13. -/
def Obligations.PollTimesOut : Prop :=
  ∀ (s : State) (o : Operation) (k : Nat), s.FAULT = none → s.RESET_LINE = none → s.ACTIVE ≠ none → s.cfg.Valid →
    s.cfg.POLL_LIMIT = some (k + 1) → s.bus.FS = true → OpenFrameEnds s → s.flash.BUSY = true →
    (s.flash.LEFT = .forever ∨ ∃ n, s.flash.LEFT = .reads n ∧ k + 1 ≤ n) → s.pc = .pollStart o →
    ∃ t, Sys2Proof.core.run (4 * (k + 1) + 1) s = .next t ∧ Over .timeout t ∧ t.work.POLLS = some (k + 1) ∧
      t.flash.BUSY = true ∧ t.flash.PENDING = s.flash.PENDING ∧ t.bus.FS = true ∧ t.bus.CS = true ∧
      t.bus.FRAME = [s.cfg.OP_RDSR]

/-- The visit of a sector, the first or a later one, rules R126, R127 and R129: Progress once, then the exact signed
product; outside [0, 2^24) it faults before any frame is sent, with what was erased before still erased; else ADDR and
ENABLE's FS_SET(1). After the last index nothing more is visited. That Progress and FS_SET(1) fall into one step is log
entry 13. -/
def Obligations.EraseVisitsASector : Prop :=
  ∀ (s : State) (i last : I32) (g : Geometry), s.FAULT = none → s.RESET_LINE = none → s.GEOM = some g →
    1 ≤ g.sector_count.toNat → g.total_size.toNat % g.sector_count.toNat = 0 →
    (s.ACTIVE = some (.erase i last) ∧ s.INIT_DONE = true ∧ s.pc = .eraseEntry) ∨
      (s.ACTIVE ≠ none ∧ s.pc = .pollTest .sector ∧ s.work.SEC_LAST = some last ∧ ∃ prev v n,
        s.work.SEC_I = some prev ∧ i.toInt = prev.toInt + 1 ∧ s.work.STATUS = some v ∧ v.getLsbD 0 = false ∧
        s.work.POLLS = some n) →
    (i.toInt ≤ last.toInt →
      ∃ t, step s = .next t ∧ t.flash = s.flash ∧ t.work.SEC_I = some i ∧ t.work.SEC_LAST = some last ∧
        (i.toInt * (g.total_size.toNat / g.sector_count.toNat : Nat) < 0 ∨
            2 ^ 24 ≤ i.toInt * (g.total_size.toNat / g.sector_count.toNat : Nat) →
          t.FAULT = some .addrOverflow ∧ t.TRACE = s.TRACE ++ [.progress i] ∧ t.bus = s.bus) ∧
        (0 ≤ i.toInt * (g.total_size.toNat / g.sector_count.toNat : Nat) →
            i.toInt * (g.total_size.toNat / g.sector_count.toNat : Nat) < 2 ^ 24 →
          t.FAULT = none ∧ t.pc = .enCs .sector ∧ t.TRACE = s.TRACE ++ [.progress i, .fsSet true] ∧
          t.bus = { s.bus with FS := true, SPI_FS_OTHER := 0#31 } ∧ ∃ a : U32, t.work.ADDR = some a ∧
            (a.toNat : Int) = i.toInt * (g.total_size.toNat / g.sector_count.toNat : Nat))) ∧
    (last.toInt < i.toInt → s.cfg.Valid → OpenFrameEnds s →
      ∃ t, step s = .next t ∧ t.FAULT = none ∧ t.flash = s.flash ∧
        (s.cfg.ERASE_RELEASES_FS = true → t.pc = .eraseEnd ∧ t.TRACE = s.TRACE ++ [.fsSet false]) ∧
        (s.cfg.ERASE_RELEASES_FS = false → Over .ok t ∧ t.TRACE = s.TRACE ++ [.res .ok]))

/-- ERASE with first > last, rules R126 and R128: nothing is erased, no Progress, Ok; FS_SET(0) exactly when
ERASE_RELEASES_FS. Step counts follow log entry 13. -/
def Obligations.EraseOfAnEmptyRange : Prop :=
  ∀ (s : State) (first last : I32), Idle s → s.cfg.Valid → s.INIT_DONE = true → OpenFrameEnds s →
    last.toInt < first.toInt →
    ∃ u t, exec (.erase first last) s = .next u ∧
      Sys2Proof.core.run (if s.cfg.ERASE_RELEASES_FS then 2 else 1) u = .next t ∧ Over .ok t ∧ t.flash = s.flash ∧
      t.TRACE = s.TRACE ++ [.req (.erase first last)] ++
        (if s.cfg.ERASE_RELEASES_FS then [.fsSet false] else []) ++ [.res .ok] ∧
      t.bus.FS = (if s.cfg.ERASE_RELEASES_FS then false else s.bus.FS)

/-- ERASE completes, rules R126 and R130: under ProbeAgrees and FlashCompletes, an unprotected and idle flash and a range
of existing sectors, ERASE ends with Ok, every byte of the range reads as erased, and every other byte as before. -/
def Obligations.EraseErasesTheRange : Prop :=
  ∀ (s : State) (g : Geometry) (first last : I32), Idle s → Wf s → s.cfg.Valid → s.launch.Valid →
    s.cfg.POLL_LIMIT = none → s.INIT_DONE = true → s.GEOM = some g → ProbeAgrees s.launch g → OpenFrameEnds s →
    s.flash.BUSY = false → s.flash.PROT = false → 0 ≤ first.toInt → first.toInt ≤ last.toInt →
    last.toInt < g.sector_count.toNat → FlashCompletes (last.toInt - first.toInt + 1).toNat s.draws →
    ∃ u k t, exec (.erase first last) s = .next u ∧ Sys2Proof.core.run k u = .next t ∧ Over .ok t ∧
      t.flash.BUSY = false ∧ t.flash.PROT = false ∧ t.bus.FS = !s.cfg.ERASE_RELEASES_FS ∧
      ∀ a : Nat, memRead t.flash.ARRAY a =
        if first.toNat * s.launch.FLASH_SECTOR ≤ a ∧ a < (last.toNat + 1) * s.launch.FLASH_SECTOR then 0xFF#8
        else memRead s.flash.ARRAY a

/-- WRITE's first step, rules R47, R119, R120 and R124: one subtraction of the base; with data, the first chunk's
length and FS_SET(1); without, FS_SET(0). That these fall into one step is the model's choice (log entry 13). -/
def Obligations.WriteBegins : Prop :=
  ∀ (s : State) (dest : U32) (data : List Byte), s.FAULT = none → s.RESET_LINE = none → s.cfg.Valid →
    s.INIT_DONE = true → s.ACTIVE = some (.write dest data) → data.length < 2 ^ 32 → OpenFrameEnds s →
    s.pc = .writeEntry →
    ∃ t, step s = .next t ∧ t.FAULT = none ∧
      t.work.CUR = some (BitVec.ofInt 32 ((dest.toNat : Int) - s.cfg.FLASH_BASE.toNat)) ∧
      t.work.SRC = some 0 ∧ (∃ r : U32, t.work.REM = some r ∧ r.toNat = data.length) ∧ t.flash = s.flash ∧
      (data = [] → t.pc = .writeEnd ∧ t.TRACE = s.TRACE ++ [.fsSet false] ∧ t.bus.FS = false ∧ t.bus.CS = false) ∧
      (data ≠ [] → t.TRACE = s.TRACE ++ [.fsSet true] ∧ t.work.ADDR = t.work.CUR ∧
        (s.cfg.VARIANT = .byteProgrammable → t.pc = .enCs .byte) ∧
        (s.cfg.VARIANT = .generic → t.pc = .enCs .page ∧ ∃ (cur n : U32), t.work.CUR = some cur ∧
          t.work.CHUNK = some n ∧
          n.toNat = min data.length (s.cfg.PAGE_SIZE - cur.toNat % s.cfg.PAGE_SIZE)))

/-- The chunk formula, rules R120 and R121: a chunk holds at least one byte and no more than remain, lies inside one
page, and none of its targets wraps. -/
def Obligations.ChunkStaysInThePage : Prop :=
  ∀ (c : Config) (cur rem : U32), c.Valid → rem ≠ 0#32 →
    1 ≤ chunkLength c cur rem ∧ chunkLength c cur rem ≤ rem.toNat ∧
    cur.toNat % c.PAGE_SIZE + chunkLength c cur rem ≤ c.PAGE_SIZE ∧
    ∀ k, k < chunkLength c cur rem → pageTarget c.PAGE_SIZE cur.toNat k = cur.toNat + k

/-- WRITE completes and reads back, in both variants, rules R119, R121, R122, R124 and R66: into erased bytes of an
unprotected and idle flash, under FlashCompletes, WRITE ends with Ok and the window readable, data byte j stands at
address rel + j, every other byte is as before, and a Host read of the window returns the data (in HOST_BYTE,
log entry 12). -/
def Obligations.WriteProgramsTheBuffer : Prop :=
  ∀ (s : State) (dest : U32) (data : List Byte), Idle s → Wf s → s.cfg.Valid → s.launch.Valid →
    s.cfg.POLL_LIMIT = none → s.INIT_DONE = true → OpenFrameEnds s → s.flash.BUSY = false → s.flash.PROT = false →
    s.cfg.FLASH_BASE.toNat ≤ dest.toNat →
    dest.toNat - s.cfg.FLASH_BASE.toNat + data.length ≤ s.launch.FLASH_SIZE →
    dest.toNat + data.length ≤ 2 ^ 32 →
    (∀ j, j < data.length → memRead s.flash.ARRAY (dest.toNat - s.cfg.FLASH_BASE.toNat + j) = 0xFF#8) →
    FlashCompletes data.length s.draws →
    ∃ u k t, exec (.write dest data) s = .next u ∧ Sys2Proof.core.run k u = .next t ∧ Over .ok t ∧
      t.flash.BUSY = false ∧ t.bus.FS = false ∧ t.bus.CS = false ∧
      (∀ a : Nat, memRead t.flash.ARRAY a =
        if dest.toNat - s.cfg.FLASH_BASE.toNat ≤ a then
          data.getD (a - (dest.toNat - s.cfg.FLASH_BASE.toNat)) (memRead s.flash.ARRAY a)
        else memRead s.flash.ARRAY a) ∧
      ∀ j, (h : j < data.length) →
        hostRead (dest + BitVec.ofNat 32 j) t = .next { t with HOST_BYTE := some data[j] }

/-- The ProgramError branch cannot be reached, rule R125, in either variant, with either kind of poll and whatever the
Host does: at L_DONE nothing is left to write, and no step returns or has returned ProgramError. It holds at power-on and
every step keeps it. -/
def Obligations.ProgramErrorIsNeverReturned : Prop :=
  (∀ s t : State, NoProgramError s → step s = .next t → NoProgramError t) ∧
  (∀ (c : Config) (l : Launch) (contents : Memory), NoProgramError (State.powerOn c l contents))

/-! ## The Host's window and reset -/

/-- `HostRead`, rule R66: the fault in bit-bang mode, the byte of the array, a pending target left open, and what lies
outside the window, which rule R66 calls outside this block and the model refuses (log entry 21). HOST_BYTE, which holds
the answer, is the model's field (log entry 12). -/
def Obligations.HostReadsTheWindow : Prop :=
  ∀ (s : State) (x : U32),
    (s.bus.FS = true → hostRead x s = .next { s with FAULT := some .readWhileCommandMode }) ∧
    (s.bus.FS = false →
      x.toNat < s.cfg.FLASH_BASE.toNat ∨ s.cfg.FLASH_BASE.toNat + s.launch.FLASH_SIZE ≤ x.toNat →
      hostRead x s = .refused .outsideWindow) ∧
    (∀ a, s.bus.FS = false → x.toNat = s.cfg.FLASH_BASE.toNat + a → a < s.launch.FLASH_SIZE →
      (s.flash.BUSY = false ∨ inTarget s.flash.PENDING a = false →
        hostRead x s = .next { s with HOST_BYTE := some (memRead s.flash.ARRAY a) }) ∧
      (s.flash.BUSY = true → inTarget s.flash.PENDING a = true →
        ∃ b draws, hostRead x s = .next { s with draws := draws, HOST_BYTE := some b }))

/-- The values of the reset table, rules R42 and R43, after power-on under any parameters, launch inputs and array
contents. The values of CLKDIV and of the registers whose reset value the spec leaves unspecified are not stated. The
last clause names the model's choices in State.reset: the default parameters and launch inputs (log entry 3) and an
array with nothing listed (log entry 6). -/
def Obligations.ResetValues : Prop :=
  ∀ (c : Config) (l : Launch) (contents : Memory),
    (State.powerOn c l contents).GEOM = none ∧ (State.powerOn c l contents).INIT_DONE = false ∧
    (State.powerOn c l contents).PHASE = .idle ∧ (State.powerOn c l contents).ACTIVE = none ∧
    (State.powerOn c l contents).RESULT = none ∧
    (State.powerOn c l contents).work = ⟨none, none, none, none, none, none, none, none, none, none⟩ ∧
    (State.powerOn c l contents).pc = .haltIdle ∧ (State.powerOn c l contents).FAULT = none ∧
    (State.powerOn c l contents).TRACE = [] ∧ (State.powerOn c l contents).bus.FS = false ∧
    (State.powerOn c l contents).bus.CS = false ∧ (State.powerOn c l contents).bus.FRAME = [] ∧
    (State.powerOn c l contents).bus.FRAME_RD = .none ∧
    (State.powerOn c l contents).flash = ⟨contents, false, false, .none, .reads 0,
      decide (c.VARIANT = .byteProgrammable)⟩ ∧
    State.reset = State.powerOn Config.default Launch.default []

/-- Resets, rules R42, R43, R154 and R155: the reset table for sequencer and transport at either reset; a reset of the
sequencer alone leaves the flash as it was, its pending cycle included; a power-on reset sets it. The reset
input RESET_LINE is the model's field (log entry 11). -/
def Obligations.ResetsFollowTheTable : Prop :=
  ∀ (s : State) (e : ResetEvent), s.FAULT = none → s.RESET_LINE = some e →
    ∃ t, step s = .next t ∧ t.cfg = s.cfg ∧ t.launch = s.launch ∧ t.GEOM = none ∧
      t.INIT_DONE = false ∧ t.PHASE = .idle ∧ t.ACTIVE = none ∧ t.RESULT = none ∧
      t.work = ⟨none, none, none, none, none, none, none, none, none, none⟩ ∧
      t.pc = .haltIdle ∧ t.FAULT = none ∧ t.TRACE = [] ∧ t.bus.FS = false ∧ t.bus.CS = false ∧ t.bus.FRAME = [] ∧
      t.bus.FRAME_RD = .none ∧ t.RESET_LINE = none ∧
      (e = .sequencer → t.flash = s.flash) ∧
      (∀ contents, e = .powerOn contents → t.flash = ⟨contents, false, false, .none, .reads 0,
        decide (s.cfg.VARIANT = .byteProgrammable)⟩)

/-- INIT after a reset that came in the middle of a cycle, rule R155: CommandWhileBusy, at RX_ID for the generic
variant and at the unlock's WREN frame for the byte-programmable one. RESET_LINE and the step counts are the model's (log
entries 11 and 13). -/
def Obligations.InitAfterMidCycleResetFaults : Prop :=
  ∀ s : State, s.FAULT = none → s.RESET_LINE = some .sequencer → s.flash.BUSY = true → s.cfg.Valid →
    ∃ r u t, step s = .next r ∧ exec .init r = .next u ∧
      Sys2Proof.core.run (if s.cfg.VARIANT = .generic then 6 else 5) u = .next t ∧
      t.FAULT = some .commandWhileBusy ∧ t.flash = s.flash ∧
      t.pc = (if s.cfg.VARIANT = .generic then .idRx else .enGo .unlock)

/-! ## Invariants -/

/-- Every step keeps a well-formed state well formed: the array in canonical form and in range, PENDING = none exactly
when BUSY = 0, the geometry's invariant, INIT_DONE exactly when GEOM is set. -/
def Obligations.EveryStepKeepsWellFormed : Prop :=
  ∀ s t : State, Wf s → step s = .next t → Wf t

/-- The start states are well formed, for any parameters, launch inputs and array in form and range; State.reset is
one of them, with the model's choices of log entries 3 and 6. -/
def Obligations.StartIsWellFormed : Prop :=
  (∀ (c : Config) (l : Launch) (contents : Memory), arrayWf l.FLASH_SIZE contents →
    Wf (State.powerOn c l contents)) ∧ Wf State.reset

/-- Every step of a conforming run, a reset between requests among them, keeps it conforming, rule R159: it raises none
of CommandWhileBusy, UnknownOpcode, UnlatchedCommand, NoWriteEnable, MalformedFrame, NotCommandMode, ReadUnset and
Protected. -/
def Obligations.EveryStepConforms : Prop :=
  ∀ s t : State, Conforms s → step s = .next t → Conforms t ∧
    t.FAULT ∉ [some .commandWhileBusy, some .unknownOpcode, some .unlatchedCommand, some .noWriteEnable,
      some .malformedFrame, some .notCommandMode, some .readUnset, some .protectedArray]

/-- The start states conform, for valid parameters with the unbounded poll, valid launch inputs and any array, whatever
requests and window reads the Host has in front of it (PROGRAM, log entry 8); State.reset is one of them, with the
model's choices of log entries 3 and 6. -/
def Obligations.StartConforms : Prop :=
  (∀ (c : Config) (l : Launch) (contents : Memory) (program : List Stmt), c.Valid → c.POLL_LIMIT = none → l.Valid →
    program.all hostStmt = true → Conforms { State.powerOn c l contents with PROGRAM := program }) ∧
  Conforms State.reset

/-- PHASE, rule R112: its transitions in a conforming run are the table's, ENABLED implies WEL = 1, and between requests
it is IDLE. -/
def Obligations.PhaseFollowsItsTable : Prop :=
  (∀ s t : State, Conforms s → s.FAULT = none → step s = .next t →
    t.PHASE = s.PHASE ∨
    (s.PHASE, t.PHASE) ∈ [(Phase.idle, Phase.enabled), (.enabled, .issued), (.issued, .latched), (.latched, .busy),
      (.busy, .idle)]) ∧
  (∀ s : State, Conforms s → s.FAULT = none →
    (s.PHASE = .enabled → s.flash.WEL = true) ∧ (s.ACTIVE = none → s.PHASE = .idle))

/-- No step writes the configuration or the launch inputs, rule R17. That they stand in State is the model's choice
(log entry 5). -/
def Obligations.ConfigurationIsConstant : Prop :=
  ∀ s t : State, step s = .next t → t.cfg = s.cfg ∧ t.launch = s.launch

/-- The geometry is produced once and immutable thereafter, and INIT_DONE stays set, rules R18 and R20, but for a
reset. -/
def Obligations.GeometryIsImmutable : Prop :=
  ∀ (s t : State) (g : Geometry), Wf s → s.RESET_LINE = none → s.GEOM = some g → step s = .next t →
    t.GEOM = some g ∧ t.INIT_DONE = true

/-- TRACE only grows (rule R27), a step of a request makes at most one transport call, and exactly one where it neither
faults, nor ends the request, nor calls the Probe (rule R8); only FS_SET changes FS and only CLK_SET changes CLKDIV
(rules R28 and R29), each leaving its event: all but for a reset. That nothing writes SPI_WRITE is the model's choice (log entry
16, unsafe). -/
def Obligations.EventsExplainControlWrites : Prop :=
  ∀ s t : State, s.RESET_LINE = none → step s = .next t → ∃ events, t.TRACE = s.TRACE ++ events ∧
    (s.ACTIVE ≠ none → (events.filter isCall).length ≤ 1 ∧
      (t.FAULT = none → t.ACTIVE ≠ none → s.pc ≠ .haltIdle → s.pc ≠ .initProbe →
        (events.filter isCall).length = 1)) ∧
    (t.bus.FS ≠ s.bus.FS → .fsSet t.bus.FS ∈ events) ∧
    (t.bus.CLKDIV ≠ s.bus.CLKDIV → .clkSet t.bus.CLKDIV ∈ events) ∧
    t.bus.SPI_WRITE = s.bus.SPI_WRITE
end

