-- ==== Sys2Proof/Laws/Bytes.lean ====
section
/-! SUPPORT. Byte order: an address or a word and its bytes are each other's inverses. -/

namespace Sys2Proof.Machine

/-- The bits of an assembled address. -/
theorem getLsbD_addrOfBytes (b1 b2 b3 : Byte) (i : Nat) : (addrOfBytes b1 b2 b3).getLsbD i =
    if i < 8 then b3.getLsbD i else if i < 16 then b2.getLsbD (i - 8) else b1.getLsbD (i - 16) := by
  have e : (addrOfBytes b1 b2 b3).getLsbD i = (decide (i < 32) && (b1 ++ b2 ++ b3 : BitVec (8 + 8 + 8)).getLsbD i) := by
    simp only [addrOfBytes, BitVec.getLsbD_setWidth]
  rw [e, BitVec.getLsbD_append, BitVec.getLsbD_append]
  by_cases h1 : i < 8
  · simp [h1, show i < 32 by omega]
  · by_cases h2 : i < 16
    · simp [h1, h2, show i < 32 by omega, show i - 8 < 8 by omega]
    · by_cases h3 : i < 32
      · simp [h1, h2, h3, show ¬ i - 8 < 8 by omega, show i - 8 - 8 = i - 16 by omega]
      · simp [h1, h2, h3, BitVec.getLsbD_of_ge b1 (i - 16) (by omega)]

/-- The bits of an assembled word. -/
theorem getLsbD_wordOfBytes (b1 b2 b3 b4 : Byte) (i : Nat) : (wordOfBytes b1 b2 b3 b4).getLsbD i =
    if i < 8 then b4.getLsbD i else if i < 16 then b3.getLsbD (i - 8)
    else if i < 24 then b2.getLsbD (i - 16) else b1.getLsbD (i - 24) := by
  have e : (wordOfBytes b1 b2 b3 b4).getLsbD i = (b1 ++ b2 ++ b3 ++ b4 : BitVec (8 + 8 + 8 + 8)).getLsbD i := rfl
  rw [e, BitVec.getLsbD_append, BitVec.getLsbD_append, BitVec.getLsbD_append]
  by_cases h1 : i < 8
  · simp [h1]
  · by_cases h2 : i < 16
    · simp [h1, h2, show i - 8 < 8 by omega]
    · by_cases h3 : i < 24
      · simp [h1, h2, h3, show ¬ i - 8 < 8 by omega, show i - 8 - 8 = i - 16 by omega, show i - 16 < 8 by omega]
      · simp [h1, h2, h3, show ¬ i - 8 < 8 by omega, show i - 8 - 8 - 8 = i - 24 by omega,
          show ¬ i - 8 - 8 < 8 by omega]

theorem wordOfBytes_wordBytes (w : U32) :
    wordOfBytes (w.extractLsb' 24 8) (w.extractLsb' 16 8) (w.extractLsb' 8 8) (w.extractLsb' 0 8) = w := by
  apply BitVec.eq_of_getLsbD_eq
  intro i hi
  rw [getLsbD_wordOfBytes]
  interval_cases i <;> simp [-BitVec.getLsbD_eq_getElem]

theorem wordBytes_wordOfBytes (b1 b2 b3 b4 : Byte) : wordBytes (wordOfBytes b1 b2 b3 b4) = [b1, b2, b3, b4] := by
  simp only [wordBytes, List.cons.injEq, and_true]
  refine ⟨?_, ?_, ?_, ?_⟩ <;> (apply BitVec.eq_of_getLsbD_eq; intro i hi) <;>
    rw [BitVec.getLsbD_extractLsb', getLsbD_wordOfBytes] <;> interval_cases i <;> simp [-BitVec.getLsbD_eq_getElem]

/-- An address that fits has no bit above bit 23. -/
theorem getLsbD_of_fits24 {a : U32} (h : fits24 a = true) {i : Nat} (hi : 24 ≤ i) : a.getLsbD i = false := by
  have h' : a.toNat < 2 ^ 24 := of_decide_eq_true h
  exact Nat.testBit_lt_two_pow (Nat.lt_of_lt_of_le h' (Nat.pow_le_pow_right (by omega) hi))

/-- The bytes of an address that fits 24 bits assemble to it, rules R50 and R86. -/
theorem addrOfBytes_addrBytes {a : U32} (h : fits24 a = true) :
    addrOfBytes (a.extractLsb' 16 8) (a.extractLsb' 8 8) (a.extractLsb' 0 8) = a := by
  apply BitVec.eq_of_getLsbD_eq
  intro i hi
  rw [getLsbD_addrOfBytes]
  by_cases h24 : 24 ≤ i
  · rw [getLsbD_of_fits24 h h24, if_neg (by omega), if_neg (by omega)]
    exact BitVec.getLsbD_of_ge _ _ (by omega)
  · have : i < 24 := by omega
    interval_cases i <;> simp [-BitVec.getLsbD_eq_getElem]

theorem addrBytes_addrOfBytes (b1 b2 b3 : Byte) : addrBytes (addrOfBytes b1 b2 b3) = [b1, b2, b3] := by
  simp only [addrBytes, List.cons.injEq, and_true]
  refine ⟨?_, ?_, ?_⟩ <;> (apply BitVec.eq_of_getLsbD_eq; intro i hi) <;>
    rw [BitVec.getLsbD_extractLsb', getLsbD_addrOfBytes] <;> interval_cases i <;> simp [-BitVec.getLsbD_eq_getElem]

theorem fits24_addrOfBytes (b1 b2 b3 : Byte) : fits24 (addrOfBytes b1 b2 b3) = true := by
  have h := (b1 ++ b2 ++ b3).isLt
  refine decide_eq_true ?_
  rw [addrOfBytes, BitVec.toNat_setWidth]
  exact Nat.lt_of_le_of_lt (Nat.mod_le _ _) h

end Sys2Proof.Machine
end

