-- ==== Sys2Proof/Laws/Memory.lean ====
section
/-! SUPPORT. The laws of the flash array: read after write, and the canonical form. -/

namespace Sys2Proof.Machine

@[simp] theorem memRead_nil (a : Nat) : memRead [] a = unlistedByte := rfl

theorem memRead_cons (b : Nat) (w : Byte) (m : Memory) (a : Nat) :
    memRead ((b, w) :: m) a = if b = a then w else memRead m a := rfl

theorem Memory.wf_nil : Memory.wf [] := by decide

theorem Memory.wf_cons {b : Nat} {w : Byte} {m : Memory} :
    Memory.wf ((b, w) :: m) ↔ (∀ x ∈ m, b < x.1) ∧ w ≠ unlistedByte ∧ Memory.wf m := by
  simp only [Memory.wf, List.pairwise_cons, List.mem_cons]
  constructor
  · rintro ⟨⟨h1, h2⟩, h3⟩
    exact ⟨h1, h3 (b, w) (Or.inl rfl), h2, fun x hx => h3 x (Or.inr hx)⟩
  · rintro ⟨h1, h2, h3, h4⟩
    refine ⟨⟨h1, h3⟩, ?_⟩
    rintro x (rfl | hx)
    · exact h2
    · exact h4 x hx

/-- An address that no cell holds reads as an unlisted one. -/
theorem memRead_of_notMem {m : Memory} {a : Nat} (h : ∀ x ∈ m, x.1 ≠ a) : memRead m a = unlistedByte := by
  induction m with
  | nil => rfl
  | cons c m ih =>
    obtain ⟨b, w⟩ := c
    rw [memRead_cons, if_neg (h (b, w) (by simp))]
    exact ih (fun x hx => h x (List.mem_cons_of_mem _ hx))

theorem memRead_memCons {m : Memory} {a : Nat} {v : Byte} (h : ∀ x ∈ m, x.1 ≠ a) (b : Nat) :
    memRead (memCons a v m) b = if b = a then v else memRead m b := by
  unfold memCons
  split
  · next hv =>
    split
    · next hb => rw [hb, memRead_of_notMem h, hv]
    · rfl
  · rw [memRead_cons]
    simp only [eq_comm]

/-- Read after write, and every other address as before. -/
theorem memRead_memWrite {m : Memory} (h : m.wf) (a : Nat) (v : Byte) (b : Nat) :
    memRead (memWrite m a v) b = if b = a then v else memRead m b := by
  induction m with
  | nil => exact memRead_memCons (by simp) b
  | cons c m ih =>
    obtain ⟨d, w⟩ := c
    have hc := Memory.wf_cons.mp h
    unfold memWrite
    split
    · next hd =>
      refine memRead_memCons (fun x hx => ?_) b
      rcases List.mem_cons.mp hx with rfl | hx
      · exact Nat.ne_of_gt hd
      · exact Nat.ne_of_gt (Nat.lt_trans hd (hc.1 x hx))
    · split
      · next _ hd =>
        subst hd
        rw [memRead_memCons (fun x hx => Nat.ne_of_gt (hc.1 x hx)), memRead_cons]
        split
        · rfl
        · next hb => rw [if_neg (fun e => hb e.symm)]
      · next hd1 hd2 =>
        rw [memRead_cons, memRead_cons, ih hc.2.2]
        split
        · next hb => subst hb; rw [if_neg (fun e => hd2 e.symm)]
        · rfl

/-- Erased addresses read as erased, every other address as before. -/
theorem memRead_memErase (m : Memory) (a n b : Nat) :
    memRead (memErase m a n) b = if a ≤ b ∧ b < a + n then erasedByte else memRead m b := by
  induction m with
  | nil =>
    simp only [memErase, List.filter_nil, memRead_nil]
    split <;> rfl
  | cons c m ih =>
    obtain ⟨d, w⟩ := c
    simp only [memErase] at ih ⊢
    by_cases hd : d < a ∨ a + n ≤ d
    · rw [List.filter_cons_of_pos (by simpa using hd), memRead_cons, memRead_cons, ih]
      split
      · next hb => subst hb; rw [if_neg (by omega)]
      · rfl
    · rw [List.filter_cons_of_neg (by simpa using hd), ih, memRead_cons]
      split
      · rfl
      · next hb => rw [if_neg (by omega)]

theorem mem_memCons {m : Memory} {a : Nat} {v : Byte} {x : Host.Cell} (h : x ∈ memCons a v m) :
    x.1 = a ∨ x ∈ m := by
  unfold memCons at h
  split at h
  · exact Or.inr h
  · rcases List.mem_cons.mp h with rfl | h
    · exact Or.inl rfl
    · exact Or.inr h

theorem mem_memWrite {m : Memory} {a : Nat} {v : Byte} {x : Host.Cell} (h : x ∈ memWrite m a v) :
    x.1 = a ∨ x ∈ m := by
  induction m with
  | nil => exact mem_memCons h
  | cons c m ih =>
    obtain ⟨d, w⟩ := c
    unfold memWrite at h
    split at h
    · exact mem_memCons h
    · split at h
      · exact (mem_memCons h).imp_right (List.mem_cons_of_mem _)
      · rcases List.mem_cons.mp h with rfl | h
        · exact Or.inr (by simp)
        · exact (ih h).imp_right (List.mem_cons_of_mem _)

theorem memCons_wf {m : Memory} {a : Nat} {v : Byte} (h : m.wf) (ha : ∀ x ∈ m, a < x.1) :
    (memCons a v m).wf := by
  unfold memCons
  split
  · exact h
  · next hv => exact Memory.wf_cons.mpr ⟨ha, hv, h⟩

/-- A write keeps the canonical form. -/
theorem memWrite_wf {m : Memory} (h : m.wf) (a : Nat) (v : Byte) : (memWrite m a v).wf := by
  induction m with
  | nil => exact memCons_wf h (by simp)
  | cons c m ih =>
    obtain ⟨d, w⟩ := c
    have hc := Memory.wf_cons.mp h
    unfold memWrite
    split
    · next hd =>
      refine memCons_wf h (fun x hx => ?_)
      rcases List.mem_cons.mp hx with rfl | hx
      · exact hd
      · exact Nat.lt_trans hd (hc.1 x hx)
    · split
      · next _ hd => subst hd; exact memCons_wf hc.2.2 hc.1
      · next hd1 hd2 =>
        refine Memory.wf_cons.mpr ⟨fun x hx => ?_, hc.2.1, ih hc.2.2⟩
        rcases mem_memWrite hx with e | hx
        · omega
        · exact hc.1 x hx

/-- An erase keeps the canonical form. -/
theorem memErase_wf {m : Memory} (h : m.wf) (a n : Nat) : (memErase m a n).wf :=
  ⟨h.1.filter _, fun x hx => h.2 x (List.mem_filter.mp hx).1⟩

theorem mem_memErase {m : Memory} {a n : Nat} {x : Host.Cell} (h : x ∈ memErase m a n) : x ∈ m :=
  (List.mem_filter.mp h).1

end Sys2Proof.Machine
end

