-- ==== Sys2Proof/Laws/State.lean ====
section
/-! SUPPORT. One lemma per field per update of the state. -/

namespace Sys2Proof.Machine

@[simp] theorem raise_cfg (x : Fault) (s : State) : (raise x s).cfg = s.cfg := rfl
@[simp] theorem raise_launch (x : Fault) (s : State) : (raise x s).launch = s.launch := rfl
@[simp] theorem raise_draws (x : Fault) (s : State) : (raise x s).draws = s.draws := rfl
@[simp] theorem raise_GEOM (x : Fault) (s : State) : (raise x s).GEOM = s.GEOM := rfl
@[simp] theorem raise_INIT_DONE (x : Fault) (s : State) : (raise x s).INIT_DONE = s.INIT_DONE := rfl
@[simp] theorem raise_PHASE (x : Fault) (s : State) : (raise x s).PHASE = s.PHASE := rfl
@[simp] theorem raise_ACTIVE (x : Fault) (s : State) : (raise x s).ACTIVE = s.ACTIVE := rfl
@[simp] theorem raise_RESULT (x : Fault) (s : State) : (raise x s).RESULT = s.RESULT := rfl
@[simp] theorem raise_work (x : Fault) (s : State) : (raise x s).work = s.work := rfl
@[simp] theorem raise_pc (x : Fault) (s : State) : (raise x s).pc = s.pc := rfl
@[simp] theorem raise_FAULT (x : Fault) (s : State) : (raise x s).FAULT = some x := rfl
@[simp] theorem raise_TRACE (x : Fault) (s : State) : (raise x s).TRACE = s.TRACE := rfl
@[simp] theorem raise_bus (x : Fault) (s : State) : (raise x s).bus = s.bus := rfl
@[simp] theorem raise_flash (x : Fault) (s : State) : (raise x s).flash = s.flash := rfl
@[simp] theorem raise_PROGRAM (x : Fault) (s : State) : (raise x s).PROGRAM = s.PROGRAM := rfl
@[simp] theorem raise_HOST_BYTE (x : Fault) (s : State) : (raise x s).HOST_BYTE = s.HOST_BYTE := rfl
@[simp] theorem raise_RESET_LINE (x : Fault) (s : State) : (raise x s).RESET_LINE = s.RESET_LINE := rfl

@[simp] theorem emit_cfg (e : Event) (s : State) : (emit e s).cfg = s.cfg := rfl
@[simp] theorem emit_launch (e : Event) (s : State) : (emit e s).launch = s.launch := rfl
@[simp] theorem emit_draws (e : Event) (s : State) : (emit e s).draws = s.draws := rfl
@[simp] theorem emit_GEOM (e : Event) (s : State) : (emit e s).GEOM = s.GEOM := rfl
@[simp] theorem emit_INIT_DONE (e : Event) (s : State) : (emit e s).INIT_DONE = s.INIT_DONE := rfl
@[simp] theorem emit_PHASE (e : Event) (s : State) : (emit e s).PHASE = s.PHASE := rfl
@[simp] theorem emit_ACTIVE (e : Event) (s : State) : (emit e s).ACTIVE = s.ACTIVE := rfl
@[simp] theorem emit_RESULT (e : Event) (s : State) : (emit e s).RESULT = s.RESULT := rfl
@[simp] theorem emit_work (e : Event) (s : State) : (emit e s).work = s.work := rfl
@[simp] theorem emit_pc (e : Event) (s : State) : (emit e s).pc = s.pc := rfl
@[simp] theorem emit_FAULT (e : Event) (s : State) : (emit e s).FAULT = s.FAULT := rfl
@[simp] theorem emit_TRACE (e : Event) (s : State) : (emit e s).TRACE = s.TRACE ++ [e] := rfl
@[simp] theorem emit_bus (e : Event) (s : State) : (emit e s).bus = s.bus := rfl
@[simp] theorem emit_flash (e : Event) (s : State) : (emit e s).flash = s.flash := rfl
@[simp] theorem emit_PROGRAM (e : Event) (s : State) : (emit e s).PROGRAM = s.PROGRAM := rfl
@[simp] theorem emit_HOST_BYTE (e : Event) (s : State) : (emit e s).HOST_BYTE = s.HOST_BYTE := rfl
@[simp] theorem emit_RESET_LINE (e : Event) (s : State) : (emit e s).RESET_LINE = s.RESET_LINE := rfl

@[simp] theorem goTo_cfg (l : Label) (s : State) : (goTo l s).cfg = s.cfg := rfl
@[simp] theorem goTo_launch (l : Label) (s : State) : (goTo l s).launch = s.launch := rfl
@[simp] theorem goTo_draws (l : Label) (s : State) : (goTo l s).draws = s.draws := rfl
@[simp] theorem goTo_GEOM (l : Label) (s : State) : (goTo l s).GEOM = s.GEOM := rfl
@[simp] theorem goTo_INIT_DONE (l : Label) (s : State) : (goTo l s).INIT_DONE = s.INIT_DONE := rfl
@[simp] theorem goTo_PHASE (l : Label) (s : State) : (goTo l s).PHASE = s.PHASE := rfl
@[simp] theorem goTo_ACTIVE (l : Label) (s : State) : (goTo l s).ACTIVE = s.ACTIVE := rfl
@[simp] theorem goTo_RESULT (l : Label) (s : State) : (goTo l s).RESULT = s.RESULT := rfl
@[simp] theorem goTo_work (l : Label) (s : State) : (goTo l s).work = s.work := rfl
@[simp] theorem goTo_pc (l : Label) (s : State) : (goTo l s).pc = l := rfl
@[simp] theorem goTo_FAULT (l : Label) (s : State) : (goTo l s).FAULT = s.FAULT := rfl
@[simp] theorem goTo_TRACE (l : Label) (s : State) : (goTo l s).TRACE = s.TRACE := rfl
@[simp] theorem goTo_bus (l : Label) (s : State) : (goTo l s).bus = s.bus := rfl
@[simp] theorem goTo_flash (l : Label) (s : State) : (goTo l s).flash = s.flash := rfl
@[simp] theorem goTo_PROGRAM (l : Label) (s : State) : (goTo l s).PROGRAM = s.PROGRAM := rfl
@[simp] theorem goTo_HOST_BYTE (l : Label) (s : State) : (goTo l s).HOST_BYTE = s.HOST_BYTE := rfl
@[simp] theorem goTo_RESET_LINE (l : Label) (s : State) : (goTo l s).RESET_LINE = s.RESET_LINE := rfl

@[simp] theorem setPhase_cfg (p : Phase) (s : State) : (setPhase p s).cfg = s.cfg := rfl
@[simp] theorem setPhase_launch (p : Phase) (s : State) : (setPhase p s).launch = s.launch := rfl
@[simp] theorem setPhase_draws (p : Phase) (s : State) : (setPhase p s).draws = s.draws := rfl
@[simp] theorem setPhase_GEOM (p : Phase) (s : State) : (setPhase p s).GEOM = s.GEOM := rfl
@[simp] theorem setPhase_INIT_DONE (p : Phase) (s : State) : (setPhase p s).INIT_DONE = s.INIT_DONE := rfl
@[simp] theorem setPhase_PHASE (p : Phase) (s : State) : (setPhase p s).PHASE = p := rfl
@[simp] theorem setPhase_ACTIVE (p : Phase) (s : State) : (setPhase p s).ACTIVE = s.ACTIVE := rfl
@[simp] theorem setPhase_RESULT (p : Phase) (s : State) : (setPhase p s).RESULT = s.RESULT := rfl
@[simp] theorem setPhase_work (p : Phase) (s : State) : (setPhase p s).work = s.work := rfl
@[simp] theorem setPhase_pc (p : Phase) (s : State) : (setPhase p s).pc = s.pc := rfl
@[simp] theorem setPhase_FAULT (p : Phase) (s : State) : (setPhase p s).FAULT = s.FAULT := rfl
@[simp] theorem setPhase_TRACE (p : Phase) (s : State) : (setPhase p s).TRACE = s.TRACE := rfl
@[simp] theorem setPhase_bus (p : Phase) (s : State) : (setPhase p s).bus = s.bus := rfl
@[simp] theorem setPhase_flash (p : Phase) (s : State) : (setPhase p s).flash = s.flash := rfl
@[simp] theorem setPhase_PROGRAM (p : Phase) (s : State) : (setPhase p s).PROGRAM = s.PROGRAM := rfl
@[simp] theorem setPhase_HOST_BYTE (p : Phase) (s : State) : (setPhase p s).HOST_BYTE = s.HOST_BYTE := rfl
@[simp] theorem setPhase_RESET_LINE (p : Phase) (s : State) : (setPhase p s).RESET_LINE = s.RESET_LINE := rfl

@[simp] theorem setStatus_cfg (v : Byte) (s : State) : (setStatus v s).cfg = s.cfg := rfl
@[simp] theorem setStatus_launch (v : Byte) (s : State) : (setStatus v s).launch = s.launch := rfl
@[simp] theorem setStatus_draws (v : Byte) (s : State) : (setStatus v s).draws = s.draws := rfl
@[simp] theorem setStatus_GEOM (v : Byte) (s : State) : (setStatus v s).GEOM = s.GEOM := rfl
@[simp] theorem setStatus_INIT_DONE (v : Byte) (s : State) : (setStatus v s).INIT_DONE = s.INIT_DONE := rfl
@[simp] theorem setStatus_PHASE (v : Byte) (s : State) : (setStatus v s).PHASE = s.PHASE := rfl
@[simp] theorem setStatus_ACTIVE (v : Byte) (s : State) : (setStatus v s).ACTIVE = s.ACTIVE := rfl
@[simp] theorem setStatus_RESULT (v : Byte) (s : State) : (setStatus v s).RESULT = s.RESULT := rfl
@[simp] theorem setStatus_work (v : Byte) (s : State) : (setStatus v s).work = { s.work with STATUS := some v } := rfl
@[simp] theorem setStatus_pc (v : Byte) (s : State) : (setStatus v s).pc = s.pc := rfl
@[simp] theorem setStatus_FAULT (v : Byte) (s : State) : (setStatus v s).FAULT = s.FAULT := rfl
@[simp] theorem setStatus_TRACE (v : Byte) (s : State) : (setStatus v s).TRACE = s.TRACE := rfl
@[simp] theorem setStatus_bus (v : Byte) (s : State) : (setStatus v s).bus = s.bus := rfl
@[simp] theorem setStatus_flash (v : Byte) (s : State) : (setStatus v s).flash = s.flash := rfl
@[simp] theorem setStatus_PROGRAM (v : Byte) (s : State) : (setStatus v s).PROGRAM = s.PROGRAM := rfl
@[simp] theorem setStatus_HOST_BYTE (v : Byte) (s : State) : (setStatus v s).HOST_BYTE = s.HOST_BYTE := rfl
@[simp] theorem setStatus_RESET_LINE (v : Byte) (s : State) : (setStatus v s).RESET_LINE = s.RESET_LINE := rfl

@[simp] theorem setId_cfg (ids : List Byte) (s : State) : (setId ids s).cfg = s.cfg := rfl
@[simp] theorem setId_launch (ids : List Byte) (s : State) : (setId ids s).launch = s.launch := rfl
@[simp] theorem setId_draws (ids : List Byte) (s : State) : (setId ids s).draws = s.draws := rfl
@[simp] theorem setId_GEOM (ids : List Byte) (s : State) : (setId ids s).GEOM = s.GEOM := rfl
@[simp] theorem setId_INIT_DONE (ids : List Byte) (s : State) : (setId ids s).INIT_DONE = s.INIT_DONE := rfl
@[simp] theorem setId_PHASE (ids : List Byte) (s : State) : (setId ids s).PHASE = s.PHASE := rfl
@[simp] theorem setId_ACTIVE (ids : List Byte) (s : State) : (setId ids s).ACTIVE = s.ACTIVE := rfl
@[simp] theorem setId_RESULT (ids : List Byte) (s : State) : (setId ids s).RESULT = s.RESULT := rfl
@[simp] theorem setId_work (ids : List Byte) (s : State) : (setId ids s).work = { s.work with ID := some ids } := rfl
@[simp] theorem setId_pc (ids : List Byte) (s : State) : (setId ids s).pc = s.pc := rfl
@[simp] theorem setId_FAULT (ids : List Byte) (s : State) : (setId ids s).FAULT = s.FAULT := rfl
@[simp] theorem setId_TRACE (ids : List Byte) (s : State) : (setId ids s).TRACE = s.TRACE := rfl
@[simp] theorem setId_bus (ids : List Byte) (s : State) : (setId ids s).bus = s.bus := rfl
@[simp] theorem setId_flash (ids : List Byte) (s : State) : (setId ids s).flash = s.flash := rfl
@[simp] theorem setId_PROGRAM (ids : List Byte) (s : State) : (setId ids s).PROGRAM = s.PROGRAM := rfl
@[simp] theorem setId_HOST_BYTE (ids : List Byte) (s : State) : (setId ids s).HOST_BYTE = s.HOST_BYTE := rfl
@[simp] theorem setId_RESET_LINE (ids : List Byte) (s : State) : (setId ids s).RESET_LINE = s.RESET_LINE := rfl

@[simp] theorem fetched_cfg (bs : List Byte) (s : State) : (fetched bs s).cfg = s.cfg := rfl
@[simp] theorem fetched_launch (bs : List Byte) (s : State) : (fetched bs s).launch = s.launch := rfl
@[simp] theorem fetched_draws (bs : List Byte) (s : State) : (fetched bs s).draws = s.draws := rfl
@[simp] theorem fetched_GEOM (bs : List Byte) (s : State) : (fetched bs s).GEOM = s.GEOM := rfl
@[simp] theorem fetched_INIT_DONE (bs : List Byte) (s : State) : (fetched bs s).INIT_DONE = s.INIT_DONE := rfl
@[simp] theorem fetched_PHASE (bs : List Byte) (s : State) : (fetched bs s).PHASE = s.PHASE := rfl
@[simp] theorem fetched_ACTIVE (bs : List Byte) (s : State) : (fetched bs s).ACTIVE = s.ACTIVE := rfl
@[simp] theorem fetched_RESULT (bs : List Byte) (s : State) : (fetched bs s).RESULT = s.RESULT := rfl
@[simp] theorem fetched_work (bs : List Byte) (s : State) : (fetched bs s).work = s.work := rfl
@[simp] theorem fetched_pc (bs : List Byte) (s : State) : (fetched bs s).pc = s.pc := rfl
@[simp] theorem fetched_FAULT (bs : List Byte) (s : State) : (fetched bs s).FAULT = s.FAULT := rfl
@[simp] theorem fetched_TRACE (bs : List Byte) (s : State) : (fetched bs s).TRACE = s.TRACE := rfl
@[simp] theorem fetched_bus (bs : List Byte) (s : State) : (fetched bs s).bus = { s.bus with RESP := bs, FRAME_RD := .done } := rfl
@[simp] theorem fetched_flash (bs : List Byte) (s : State) : (fetched bs s).flash = s.flash := rfl
@[simp] theorem fetched_PROGRAM (bs : List Byte) (s : State) : (fetched bs s).PROGRAM = s.PROGRAM := rfl
@[simp] theorem fetched_HOST_BYTE (bs : List Byte) (s : State) : (fetched bs s).HOST_BYTE = s.HOST_BYTE := rfl
@[simp] theorem fetched_RESET_LINE (bs : List Byte) (s : State) : (fetched bs s).RESET_LINE = s.RESET_LINE := rfl

@[simp] theorem drewDuration_cfg (s : State) : (drewDuration s).cfg = s.cfg := rfl
@[simp] theorem drewDuration_launch (s : State) : (drewDuration s).launch = s.launch := rfl
@[simp] theorem drewDuration_draws (s : State) : (drewDuration s).draws = { s.draws with durations := s.draws.durations.tail, count := s.draws.count + 1 } := rfl
@[simp] theorem drewDuration_GEOM (s : State) : (drewDuration s).GEOM = s.GEOM := rfl
@[simp] theorem drewDuration_INIT_DONE (s : State) : (drewDuration s).INIT_DONE = s.INIT_DONE := rfl
@[simp] theorem drewDuration_PHASE (s : State) : (drewDuration s).PHASE = s.PHASE := rfl
@[simp] theorem drewDuration_ACTIVE (s : State) : (drewDuration s).ACTIVE = s.ACTIVE := rfl
@[simp] theorem drewDuration_RESULT (s : State) : (drewDuration s).RESULT = s.RESULT := rfl
@[simp] theorem drewDuration_work (s : State) : (drewDuration s).work = s.work := rfl
@[simp] theorem drewDuration_pc (s : State) : (drewDuration s).pc = s.pc := rfl
@[simp] theorem drewDuration_FAULT (s : State) : (drewDuration s).FAULT = s.FAULT := rfl
@[simp] theorem drewDuration_TRACE (s : State) : (drewDuration s).TRACE = s.TRACE := rfl
@[simp] theorem drewDuration_bus (s : State) : (drewDuration s).bus = s.bus := rfl
@[simp] theorem drewDuration_flash (s : State) : (drewDuration s).flash = s.flash := rfl
@[simp] theorem drewDuration_PROGRAM (s : State) : (drewDuration s).PROGRAM = s.PROGRAM := rfl
@[simp] theorem drewDuration_HOST_BYTE (s : State) : (drewDuration s).HOST_BYTE = s.HOST_BYTE := rfl
@[simp] theorem drewDuration_RESET_LINE (s : State) : (drewDuration s).RESET_LINE = s.RESET_LINE := rfl

@[simp] theorem drewStatusBits_cfg (s : State) : (drewStatusBits s).cfg = s.cfg := rfl
@[simp] theorem drewStatusBits_launch (s : State) : (drewStatusBits s).launch = s.launch := rfl
@[simp] theorem drewStatusBits_draws (s : State) : (drewStatusBits s).draws = { s.draws with statusBits := s.draws.statusBits.tail, count := s.draws.count + 1 } := rfl
@[simp] theorem drewStatusBits_GEOM (s : State) : (drewStatusBits s).GEOM = s.GEOM := rfl
@[simp] theorem drewStatusBits_INIT_DONE (s : State) : (drewStatusBits s).INIT_DONE = s.INIT_DONE := rfl
@[simp] theorem drewStatusBits_PHASE (s : State) : (drewStatusBits s).PHASE = s.PHASE := rfl
@[simp] theorem drewStatusBits_ACTIVE (s : State) : (drewStatusBits s).ACTIVE = s.ACTIVE := rfl
@[simp] theorem drewStatusBits_RESULT (s : State) : (drewStatusBits s).RESULT = s.RESULT := rfl
@[simp] theorem drewStatusBits_work (s : State) : (drewStatusBits s).work = s.work := rfl
@[simp] theorem drewStatusBits_pc (s : State) : (drewStatusBits s).pc = s.pc := rfl
@[simp] theorem drewStatusBits_FAULT (s : State) : (drewStatusBits s).FAULT = s.FAULT := rfl
@[simp] theorem drewStatusBits_TRACE (s : State) : (drewStatusBits s).TRACE = s.TRACE := rfl
@[simp] theorem drewStatusBits_bus (s : State) : (drewStatusBits s).bus = s.bus := rfl
@[simp] theorem drewStatusBits_flash (s : State) : (drewStatusBits s).flash = s.flash := rfl
@[simp] theorem drewStatusBits_PROGRAM (s : State) : (drewStatusBits s).PROGRAM = s.PROGRAM := rfl
@[simp] theorem drewStatusBits_HOST_BYTE (s : State) : (drewStatusBits s).HOST_BYTE = s.HOST_BYTE := rfl
@[simp] theorem drewStatusBits_RESET_LINE (s : State) : (drewStatusBits s).RESET_LINE = s.RESET_LINE := rfl

@[simp] theorem drewByte_cfg (s : State) : (drewByte s).cfg = s.cfg := rfl
@[simp] theorem drewByte_launch (s : State) : (drewByte s).launch = s.launch := rfl
@[simp] theorem drewByte_draws (s : State) : (drewByte s).draws = { s.draws with bytes := s.draws.bytes.tail, count := s.draws.count + 1 } := rfl
@[simp] theorem drewByte_GEOM (s : State) : (drewByte s).GEOM = s.GEOM := rfl
@[simp] theorem drewByte_INIT_DONE (s : State) : (drewByte s).INIT_DONE = s.INIT_DONE := rfl
@[simp] theorem drewByte_PHASE (s : State) : (drewByte s).PHASE = s.PHASE := rfl
@[simp] theorem drewByte_ACTIVE (s : State) : (drewByte s).ACTIVE = s.ACTIVE := rfl
@[simp] theorem drewByte_RESULT (s : State) : (drewByte s).RESULT = s.RESULT := rfl
@[simp] theorem drewByte_work (s : State) : (drewByte s).work = s.work := rfl
@[simp] theorem drewByte_pc (s : State) : (drewByte s).pc = s.pc := rfl
@[simp] theorem drewByte_FAULT (s : State) : (drewByte s).FAULT = s.FAULT := rfl
@[simp] theorem drewByte_TRACE (s : State) : (drewByte s).TRACE = s.TRACE := rfl
@[simp] theorem drewByte_bus (s : State) : (drewByte s).bus = s.bus := rfl
@[simp] theorem drewByte_flash (s : State) : (drewByte s).flash = s.flash := rfl
@[simp] theorem drewByte_PROGRAM (s : State) : (drewByte s).PROGRAM = s.PROGRAM := rfl
@[simp] theorem drewByte_HOST_BYTE (s : State) : (drewByte s).HOST_BYTE = s.HOST_BYTE := rfl
@[simp] theorem drewByte_RESET_LINE (s : State) : (drewByte s).RESET_LINE = s.RESET_LINE := rfl

@[simp] theorem drewBit_cfg (s : State) : (drewBit s).cfg = s.cfg := rfl
@[simp] theorem drewBit_launch (s : State) : (drewBit s).launch = s.launch := rfl
@[simp] theorem drewBit_draws (s : State) : (drewBit s).draws = { s.draws with bits := s.draws.bits.tail, count := s.draws.count + 1 } := rfl
@[simp] theorem drewBit_GEOM (s : State) : (drewBit s).GEOM = s.GEOM := rfl
@[simp] theorem drewBit_INIT_DONE (s : State) : (drewBit s).INIT_DONE = s.INIT_DONE := rfl
@[simp] theorem drewBit_PHASE (s : State) : (drewBit s).PHASE = s.PHASE := rfl
@[simp] theorem drewBit_ACTIVE (s : State) : (drewBit s).ACTIVE = s.ACTIVE := rfl
@[simp] theorem drewBit_RESULT (s : State) : (drewBit s).RESULT = s.RESULT := rfl
@[simp] theorem drewBit_work (s : State) : (drewBit s).work = s.work := rfl
@[simp] theorem drewBit_pc (s : State) : (drewBit s).pc = s.pc := rfl
@[simp] theorem drewBit_FAULT (s : State) : (drewBit s).FAULT = s.FAULT := rfl
@[simp] theorem drewBit_TRACE (s : State) : (drewBit s).TRACE = s.TRACE := rfl
@[simp] theorem drewBit_bus (s : State) : (drewBit s).bus = s.bus := rfl
@[simp] theorem drewBit_flash (s : State) : (drewBit s).flash = s.flash := rfl
@[simp] theorem drewBit_PROGRAM (s : State) : (drewBit s).PROGRAM = s.PROGRAM := rfl
@[simp] theorem drewBit_HOST_BYTE (s : State) : (drewBit s).HOST_BYTE = s.HOST_BYTE := rfl
@[simp] theorem drewBit_RESET_LINE (s : State) : (drewBit s).RESET_LINE = s.RESET_LINE := rfl

@[simp] theorem closeCycle_cfg (s : State) : (closeCycle s).cfg = s.cfg := rfl
@[simp] theorem closeCycle_launch (s : State) : (closeCycle s).launch = s.launch := rfl
@[simp] theorem closeCycle_draws (s : State) : (closeCycle s).draws = s.draws := rfl
@[simp] theorem closeCycle_GEOM (s : State) : (closeCycle s).GEOM = s.GEOM := rfl
@[simp] theorem closeCycle_INIT_DONE (s : State) : (closeCycle s).INIT_DONE = s.INIT_DONE := rfl
@[simp] theorem closeCycle_PHASE (s : State) : (closeCycle s).PHASE = s.PHASE := rfl
@[simp] theorem closeCycle_ACTIVE (s : State) : (closeCycle s).ACTIVE = s.ACTIVE := rfl
@[simp] theorem closeCycle_RESULT (s : State) : (closeCycle s).RESULT = s.RESULT := rfl
@[simp] theorem closeCycle_work (s : State) : (closeCycle s).work = s.work := rfl
@[simp] theorem closeCycle_pc (s : State) : (closeCycle s).pc = s.pc := rfl
@[simp] theorem closeCycle_FAULT (s : State) : (closeCycle s).FAULT = s.FAULT := rfl
@[simp] theorem closeCycle_TRACE (s : State) : (closeCycle s).TRACE = s.TRACE := rfl
@[simp] theorem closeCycle_bus (s : State) : (closeCycle s).bus = s.bus := rfl
@[simp] theorem closeCycle_flash (s : State) : (closeCycle s).flash = { s.flash with WEL := false, BUSY := false, PENDING := .none } := rfl
@[simp] theorem closeCycle_PROGRAM (s : State) : (closeCycle s).PROGRAM = s.PROGRAM := rfl
@[simp] theorem closeCycle_HOST_BYTE (s : State) : (closeCycle s).HOST_BYTE = s.HOST_BYTE := rfl
@[simp] theorem closeCycle_RESET_LINE (s : State) : (closeCycle s).RESET_LINE = s.RESET_LINE := rfl

@[simp] theorem startCycle_cfg (p : Cycle) (s : State) : (startCycle p s).cfg = s.cfg := rfl
@[simp] theorem startCycle_launch (p : Cycle) (s : State) : (startCycle p s).launch = s.launch := rfl
@[simp] theorem startCycle_draws (p : Cycle) (s : State) : (startCycle p s).draws = (drewDuration s).draws := rfl
@[simp] theorem startCycle_GEOM (p : Cycle) (s : State) : (startCycle p s).GEOM = s.GEOM := rfl
@[simp] theorem startCycle_INIT_DONE (p : Cycle) (s : State) : (startCycle p s).INIT_DONE = s.INIT_DONE := rfl
@[simp] theorem startCycle_PHASE (p : Cycle) (s : State) : (startCycle p s).PHASE = s.PHASE := rfl
@[simp] theorem startCycle_ACTIVE (p : Cycle) (s : State) : (startCycle p s).ACTIVE = s.ACTIVE := rfl
@[simp] theorem startCycle_RESULT (p : Cycle) (s : State) : (startCycle p s).RESULT = s.RESULT := rfl
@[simp] theorem startCycle_work (p : Cycle) (s : State) : (startCycle p s).work = s.work := rfl
@[simp] theorem startCycle_pc (p : Cycle) (s : State) : (startCycle p s).pc = s.pc := rfl
@[simp] theorem startCycle_FAULT (p : Cycle) (s : State) : (startCycle p s).FAULT = s.FAULT := rfl
@[simp] theorem startCycle_TRACE (p : Cycle) (s : State) : (startCycle p s).TRACE = s.TRACE := rfl
@[simp] theorem startCycle_bus (p : Cycle) (s : State) : (startCycle p s).bus = s.bus := rfl
@[simp] theorem startCycle_flash (p : Cycle) (s : State) : (startCycle p s).flash = { s.flash with BUSY := true, PENDING := p, LEFT := nextDuration s } := rfl
@[simp] theorem startCycle_PROGRAM (p : Cycle) (s : State) : (startCycle p s).PROGRAM = s.PROGRAM := rfl
@[simp] theorem startCycle_HOST_BYTE (p : Cycle) (s : State) : (startCycle p s).HOST_BYTE = s.HOST_BYTE := rfl
@[simp] theorem startCycle_RESET_LINE (p : Cycle) (s : State) : (startCycle p s).RESET_LINE = s.RESET_LINE := rfl

@[simp] theorem startRequest_cfg (r : Request) (s : State) : (startRequest r s).cfg = s.cfg := rfl
@[simp] theorem startRequest_launch (r : Request) (s : State) : (startRequest r s).launch = s.launch := rfl
@[simp] theorem startRequest_draws (r : Request) (s : State) : (startRequest r s).draws = s.draws := rfl
@[simp] theorem startRequest_GEOM (r : Request) (s : State) : (startRequest r s).GEOM = s.GEOM := rfl
@[simp] theorem startRequest_INIT_DONE (r : Request) (s : State) : (startRequest r s).INIT_DONE = s.INIT_DONE := rfl
@[simp] theorem startRequest_PHASE (r : Request) (s : State) : (startRequest r s).PHASE = s.PHASE := rfl
@[simp] theorem startRequest_ACTIVE (r : Request) (s : State) : (startRequest r s).ACTIVE = some r := rfl
@[simp] theorem startRequest_RESULT (r : Request) (s : State) : (startRequest r s).RESULT = s.RESULT := rfl
@[simp] theorem startRequest_work (r : Request) (s : State) : (startRequest r s).work = Work.unset := rfl
@[simp] theorem startRequest_pc (r : Request) (s : State) : (startRequest r s).pc = entryLabel r := rfl
@[simp] theorem startRequest_FAULT (r : Request) (s : State) : (startRequest r s).FAULT = s.FAULT := rfl
@[simp] theorem startRequest_TRACE (r : Request) (s : State) : (startRequest r s).TRACE = s.TRACE ++ [.req r] := rfl
@[simp] theorem startRequest_bus (r : Request) (s : State) : (startRequest r s).bus = s.bus := rfl
@[simp] theorem startRequest_flash (r : Request) (s : State) : (startRequest r s).flash = s.flash := rfl
@[simp] theorem startRequest_PROGRAM (r : Request) (s : State) : (startRequest r s).PROGRAM = s.PROGRAM := rfl
@[simp] theorem startRequest_HOST_BYTE (r : Request) (s : State) : (startRequest r s).HOST_BYTE = s.HOST_BYTE := rfl
@[simp] theorem startRequest_RESET_LINE (r : Request) (s : State) : (startRequest r s).RESET_LINE = s.RESET_LINE := rfl

@[simp] theorem endWith_cfg (c : Result) (s : State) : (endWith c s).cfg = s.cfg := rfl
@[simp] theorem endWith_launch (c : Result) (s : State) : (endWith c s).launch = s.launch := rfl
@[simp] theorem endWith_draws (c : Result) (s : State) : (endWith c s).draws = s.draws := rfl
@[simp] theorem endWith_GEOM (c : Result) (s : State) : (endWith c s).GEOM = s.GEOM := rfl
@[simp] theorem endWith_INIT_DONE (c : Result) (s : State) : (endWith c s).INIT_DONE = s.INIT_DONE := rfl
@[simp] theorem endWith_PHASE (c : Result) (s : State) : (endWith c s).PHASE = .idle := rfl
@[simp] theorem endWith_ACTIVE (c : Result) (s : State) : (endWith c s).ACTIVE = none := rfl
@[simp] theorem endWith_RESULT (c : Result) (s : State) : (endWith c s).RESULT = some c := rfl
@[simp] theorem endWith_work (c : Result) (s : State) : (endWith c s).work = s.work := rfl
@[simp] theorem endWith_pc (c : Result) (s : State) : (endWith c s).pc = .haltIdle := rfl
@[simp] theorem endWith_FAULT (c : Result) (s : State) : (endWith c s).FAULT = s.FAULT := rfl
@[simp] theorem endWith_TRACE (c : Result) (s : State) : (endWith c s).TRACE = s.TRACE ++ [.res c] := rfl
@[simp] theorem endWith_bus (c : Result) (s : State) : (endWith c s).bus = s.bus := rfl
@[simp] theorem endWith_flash (c : Result) (s : State) : (endWith c s).flash = s.flash := rfl
@[simp] theorem endWith_PROGRAM (c : Result) (s : State) : (endWith c s).PROGRAM = s.PROGRAM := rfl
@[simp] theorem endWith_HOST_BYTE (c : Result) (s : State) : (endWith c s).HOST_BYTE = s.HOST_BYTE := rfl
@[simp] theorem endWith_RESET_LINE (c : Result) (s : State) : (endWith c s).RESET_LINE = s.RESET_LINE := rfl

end Sys2Proof.Machine
end

