-- ==== Sys2Proof/Laws/Ops.lean ====
section
/-! SUPPORT. Sequencing, faults and draws: what each operation of Ops can do. -/

namespace Sys2Proof.Machine

theorem andThen_ok {s : State} (h : s.FAULT = none) (f : State → State) : s.andThen f = f s := by
  simp [State.andThen, h]

theorem andThen_fault {s : State} {x : Fault} (h : s.FAULT = some x) (f : State → State) : s.andThen f = s := by
  simp [State.andThen, h]

@[simp] theorem andThen_raise (x : Fault) (s : State) (f : State → State) : (raise x s).andThen f = raise x s := rfl

/-- A part of a step either ran in a state without a fault, or left the faulted state as it was. -/
theorem andThen_cases (s : State) (f : State → State) :
    (s.FAULT = none ∧ s.andThen f = f s) ∨ ∃ x, s.FAULT = some x ∧ s.andThen f = s := by
  cases h : s.FAULT with
  | none => exact Or.inl ⟨rfl, andThen_ok h f⟩
  | some x => exact Or.inr ⟨x, rfl, andThen_fault h f⟩

@[simp] theorem need_some {α : Type} (v : α) (s : State) (k : α → State) : need (some v) s k = k v := rfl

@[simp] theorem need_none {α : Type} (s : State) (k : α → State) : need none s k = raise .readUnset s := rfl

theorem runs_ok {s : State} (h : s.FAULT = none) (f : State → State) : runs s f = .next (f s) := by
  simp [runs, h]

theorem runs_fault {s : State} {x : Fault} (h : s.FAULT = some x) (f : State → State) : runs s f = .fault x := by
  simp [runs, h]

/-- A request is started, or the machine is faulted, or the request is not admitted. -/
theorem admit_cases (r : Request) (s : State) :
    (s.FAULT = none ∧ s.ACTIVE = none ∧ requestFits r = true ∧ admitRequest r s = .next (startRequest r s)) ∨
    (∃ x, s.FAULT = some x ∧ admitRequest r s = .fault x) ∨ admitRequest r s = .refused .notAdmitted := by
  unfold admitRequest
  cases hf : s.FAULT with
  | some x => exact Or.inr (Or.inl ⟨x, rfl, rfl⟩)
  | none =>
    by_cases h : s.ACTIVE = none ∧ requestFits r = true
    · exact Or.inl ⟨rfl, h.1, h.2, by simp [h.1, h.2]⟩
    · exact Or.inr (Or.inr (by simp only [if_neg h]))

/-! ## What the transport and the flash leave alone -/

/-- The fields no transport primitive writes. -/
structure KeepsControl (s t : State) : Prop where
  cfg : t.cfg = s.cfg
  launch : t.launch = s.launch
  geom : t.GEOM = s.GEOM
  initDone : t.INIT_DONE = s.INIT_DONE
  phase : t.PHASE = s.PHASE
  active : t.ACTIVE = s.ACTIVE
  result : t.RESULT = s.RESULT
  work : t.work = s.work
  pc : t.pc = s.pc
  program : t.PROGRAM = s.PROGRAM
  hostByte : t.HOST_BYTE = s.HOST_BYTE
  resetLine : t.RESET_LINE = s.RESET_LINE

theorem KeepsControl.refl (s : State) : KeepsControl s s :=
  ⟨rfl, rfl, rfl, rfl, rfl, rfl, rfl, rfl, rfl, rfl, rfl, rfl⟩

theorem KeepsControl.trans {s t u : State} (h : KeepsControl s t) (g : KeepsControl t u) : KeepsControl s u :=
  ⟨g.1.trans h.1, g.2.trans h.2, g.3.trans h.3, g.4.trans h.4, g.5.trans h.5, g.6.trans h.6, g.7.trans h.7,
    g.8.trans h.8, g.9.trans h.9, g.10.trans h.10, g.11.trans h.11, g.12.trans h.12⟩

theorem KeepsControl.andThen {s t : State} {f : State → State} (h : KeepsControl s t)
    (g : ∀ u, KeepsControl u (f u)) : KeepsControl s (t.andThen f) := by
  rcases andThen_cases t f with ⟨_, e⟩ | ⟨_, _, e⟩
  · rw [e]; exact h.trans (g t)
  · rw [e]; exact h

theorem raise_keeps (x : Fault) (s : State) : KeepsControl s (raise x s) :=
  ⟨rfl, rfl, rfl, rfl, rfl, rfl, rfl, rfl, rfl, rfl, rfl, rfl⟩

theorem emit_keeps (e : Event) (s : State) : KeepsControl s (emit e s) :=
  ⟨rfl, rfl, rfl, rfl, rfl, rfl, rfl, rfl, rfl, rfl, rfl, rfl⟩

theorem startCycle_keeps (p : Cycle) (s : State) : KeepsControl s (startCycle p s) :=
  ⟨rfl, rfl, rfl, rfl, rfl, rfl, rfl, rfl, rfl, rfl, rfl, rfl⟩

/-- A state that differs only in fields the transport and the flash may write. -/
theorem KeepsControl.of_fields (s : State) (draws : Draws) (trace : List Event) (fault : Option Fault)
    (bus : Transport) (flash : Flash) :
    KeepsControl s { s with draws := draws, TRACE := trace, FAULT := fault, bus := bus, flash := flash } :=
  ⟨rfl, rfl, rfl, rfl, rfl, rfl, rfl, rfl, rfl, rfl, rfl, rfl⟩

/-! ## Draws -/

/-- Byte draws change the draws and nothing else. -/
theorem drawBytes_eq (n : Nat) (s : State) : (drawBytes n s).2 = { s with draws := (drawBytes n s).2.draws } := by
  induction n generalizing s with
  | zero => rfl
  | succ n ih =>
    simp only [drawBytes]
    rw [ih]
    rfl

@[simp] theorem drawBytes_length (n : Nat) (s : State) : (drawBytes n s).1.length = n := by
  induction n generalizing s with
  | zero => rfl
  | succ n ih => simp [drawBytes, ih]

/-! ## Reset -/

@[simp] theorem applyReset_sequencer_flash (s : State) : (applyReset .sequencer s).flash = s.flash := rfl

@[simp] theorem applyReset_cfg (e : ResetEvent) (s : State) : (applyReset e s).cfg = s.cfg := by
  cases e <;> rfl

@[simp] theorem applyReset_launch (e : ResetEvent) (s : State) : (applyReset e s).launch = s.launch := by
  cases e <;> rfl

end Sys2Proof.Machine
end

