-- ==== Sys2Proof/Laws/Flash.lean ====
section
/-! SUPPORT. What the flash can do at a frame end and in a status read. -/

namespace Sys2Proof.Machine

/-! ## Opcodes -/

theorem command_mem_all (k : Command) : k ∈ Command.all := by cases k <;> decide

/-- Two commands with one opcode are the same, for valid parameters (rule R87). -/
theorem opcode_injective {c : Config} (h : c.Valid) {k l : Command} (e : c.opcode k = c.opcode l) : k = l :=
  List.inj_on_of_nodup_map h.2.1 (command_mem_all k) (command_mem_all l) e

/-- A command's opcode parameter is the byte it was read from (rule R88). -/
theorem opcode_of_commandOf {c : Config} {b : Byte} {k : Command} (h : commandOf c b = some k) : c.opcode k = b := by
  have := List.find?_some h
  simpa using this

/-- No command is read from a byte that is no opcode parameter (rule R89). -/
theorem commandOf_eq_none {c : Config} {b : Byte} : commandOf c b = none ↔ ∀ k, c.opcode k ≠ b := by
  constructor
  · intro h k hk
    have := List.find?_eq_none.mp h k (command_mem_all k)
    simp [hk] at this
  · intro h
    exact List.find?_eq_none.mpr (fun k _ => by simpa using h k)

/-- The command read from an opcode parameter, for valid parameters (rule R87). -/
theorem commandOf_opcode {c : Config} (h : c.Valid) (k : Command) : commandOf c (c.opcode k) = some k := by
  cases hk : commandOf c (c.opcode k) with
  | none => exact absurd rfl (commandOf_eq_none.mp hk k)
  | some l => rw [opcode_injective h (opcode_of_commandOf hk)]

/-! ## Cycles -/

theorem programByte_eq (t : Nat) (d : Byte) (s : State) :
    ∃ v draws, programByte t d s =
      { s with draws := draws, flash := { s.flash with ARRAY := memWrite s.flash.ARRAY t v } } ∧
      (memRead s.flash.ARRAY t = erasedByte → v = d) := by
  unfold programByte
  split
  · exact ⟨d, s.draws, rfl, fun _ => rfl⟩
  · next h => exact ⟨nextByte s, _, rfl, fun e => absurd e h⟩

/-- A program cycle changes the array and the draws, nothing else. -/
theorem programAll_eq (ws : List Host.Cell) (s : State) :
    ∃ m draws, programAll ws s = { s with draws := draws, flash := { s.flash with ARRAY := m } } := by
  induction ws generalizing s with
  | nil => exact ⟨s.flash.ARRAY, s.draws, rfl⟩
  | cons c ws ih =>
    obtain ⟨v, dr, e, _⟩ := programByte_eq c.1 c.2 s
    obtain ⟨m, dr', e'⟩ := ih (programByte c.1 c.2 s)
    refine ⟨m, dr', ?_⟩
    show programAll ws (programByte c.1 c.2 s) = _
    rw [e', e]

/-- A program cycle keeps the array's form and range. -/
theorem programAll_wf {size : Nat} (ws : List Host.Cell) (s : State) (h : arrayWf size s.flash.ARRAY)
    (hw : ∀ x ∈ ws, x.1 < size) : arrayWf size (programAll ws s).flash.ARRAY := by
  induction ws generalizing s with
  | nil => exact h
  | cons c ws ih =>
    refine ih (programByte c.1 c.2 s) ?_ (fun x hx => hw x (List.mem_cons_of_mem _ hx))
    obtain ⟨v, dr, e, _⟩ := programByte_eq c.1 c.2 s
    rw [e]
    refine ⟨memWrite_wf h.1 _ _, fun x hx => ?_⟩
    rcases mem_memWrite hx with e | hx
    · rw [e]; exact hw c (by simp)
    · exact h.2 x hx

/-- An address that is no target of a program cycle keeps its byte. -/
theorem programAll_other (ws : List Host.Cell) (s : State) (h : s.flash.ARRAY.wf) (a : Nat)
    (ha : ∀ x ∈ ws, x.1 ≠ a) : memRead (programAll ws s).flash.ARRAY a = memRead s.flash.ARRAY a := by
  induction ws generalizing s with
  | nil => rfl
  | cons c ws ih =>
    obtain ⟨v, dr, e, _⟩ := programByte_eq c.1 c.2 s
    show memRead (programAll ws (programByte c.1 c.2 s)).flash.ARRAY a = _
    rw [ih _ (by rw [e]; exact memWrite_wf h _ _) (fun x hx => ha x (List.mem_cons_of_mem _ hx)), e]
    show memRead (memWrite s.flash.ARRAY c.1 v) a = _
    rw [memRead_memWrite h, if_neg (fun e => ha c (by simp) e.symm)]

/-- An erased target of a program cycle with distinct targets takes its byte (rules R60 and R101). -/
theorem programAll_target (ws : List Host.Cell) (s : State) (h : s.flash.ARRAY.wf)
    (hd : (ws.map (·.1)).Nodup) {t : Nat} {d : Byte} (hm : (t, d) ∈ ws)
    (he : memRead s.flash.ARRAY t = erasedByte) : memRead (programAll ws s).flash.ARRAY t = d := by
  induction ws generalizing s with
  | nil => simp at hm
  | cons c ws ih =>
    obtain ⟨v, dr, e, hv⟩ := programByte_eq c.1 c.2 s
    have hwf : (programByte c.1 c.2 s).flash.ARRAY.wf := by rw [e]; exact memWrite_wf h _ _
    have hd' := List.nodup_cons.mp (by simpa using hd : (c.1 :: ws.map (·.1)).Nodup)
    show memRead (programAll ws (programByte c.1 c.2 s)).flash.ARRAY t = d
    rcases List.mem_cons.mp hm with rfl | hm
    · rw [programAll_other ws _ hwf t (fun x hx e => hd'.1 (List.mem_map.mpr ⟨x, hx, e⟩)), e]
      show memRead (memWrite s.flash.ARRAY t v) t = d
      rw [memRead_memWrite h, if_pos rfl]
      exact hv he
    · refine ih _ hwf hd'.2 hm ?_
      rw [e]
      show memRead (memWrite s.flash.ARRAY c.1 v) t = _
      rw [memRead_memWrite h, if_neg (fun e' => hd'.1 (List.mem_map.mpr ⟨(t, d), hm, e'⟩))]
      exact he

/-- A cycle's effect changes the array, the protection and the draws, nothing else. -/
theorem cycleEffect_eq (p : Cycle) (s : State) :
    ∃ m prot draws, cycleEffect p s = { s with draws := draws, flash := { s.flash with ARRAY := m, PROT := prot } } := by
  cases p with
  | none => exact ⟨s.flash.ARRAY, s.flash.PROT, s.draws, rfl⟩
  | erase a n => exact ⟨_, s.flash.PROT, s.draws, rfl⟩
  | eraseAll => exact ⟨_, s.flash.PROT, s.draws, rfl⟩
  | program ws =>
    obtain ⟨m, dr, e⟩ := programAll_eq ws s
    exact ⟨m, s.flash.PROT, dr, e⟩
  | writeSR v =>
    by_cases h : v = s.cfg.UNLOCK_SR_VALUE
    · exact ⟨s.flash.ARRAY, false, s.draws, by simp [cycleEffect, h]⟩
    · exact ⟨s.flash.ARRAY, nextBit s, (drewBit s).draws, by simp only [cycleEffect, if_neg h]; rfl⟩

/-- Only a status write changes the protection. -/
theorem cycleEffect_prot {p : Cycle} (s : State) (h : ∀ v, p ≠ .writeSR v) :
    (cycleEffect p s).flash.PROT = s.flash.PROT := by
  cases p with
  | none => rfl
  | erase a n => rfl
  | eraseAll => rfl
  | program ws =>
    obtain ⟨m, dr, e⟩ := programAll_eq ws s
    show (programAll ws s).flash.PROT = _
    rw [e]
  | writeSR v => exact absurd rfl (h v)

theorem cycleEffect_wf {p : Cycle} {size : Nat} {s : State} (h : arrayWf size s.flash.ARRAY) (hp : p.inRange size) :
    arrayWf size (cycleEffect p s).flash.ARRAY := by
  cases p with
  | none => exact h
  | erase a n => exact ⟨memErase_wf h.1 _ _, fun x hx => h.2 x (mem_memErase hx)⟩
  | eraseAll => exact ⟨memErase_wf h.1 _ _, fun x hx => h.2 x (mem_memErase hx)⟩
  | program ws => exact programAll_wf ws s h hp
  | writeSR v => by_cases hv : v = s.cfg.UNLOCK_SR_VALUE <;> simpa [cycleEffect, hv] using h

/-- A cycle's effect keeps the array's canonical form. -/
theorem cycleEffect_memWf (p : Cycle) {s : State} (h : s.flash.ARRAY.wf) : (cycleEffect p s).flash.ARRAY.wf := by
  cases p with
  | none => exact h
  | erase a n => exact memErase_wf h a n
  | eraseAll => exact memErase_wf h _ _
  | program ws =>
    show (programAll ws s).flash.ARRAY.wf
    induction ws generalizing s with
    | nil => exact h
    | cons c ws ih =>
      obtain ⟨v, dr, e, _⟩ := programByte_eq c.1 c.2 s
      exact ih (by rw [e]; exact memWrite_wf h _ _)
  | writeSR v => by_cases hv : v = s.cfg.UNLOCK_SR_VALUE <;> simpa [cycleEffect, hv] using h

/-- A program cycle neither reads nor writes the bus and the trace. -/
theorem programAll_bus (ws : List Host.Cell) (s : State) (bus : Transport) (trace : List Event) :
    programAll ws { s with bus := bus, TRACE := trace } = { programAll ws s with bus := bus, TRACE := trace } := by
  induction ws generalizing s with
  | nil => rfl
  | cons c ws ih =>
    have e : programByte c.1 c.2 { s with bus := bus, TRACE := trace } =
        { programByte c.1 c.2 s with bus := bus, TRACE := trace } := by
      unfold programByte
      split <;> rfl
    show programAll ws (programByte c.1 c.2 { s with bus := bus, TRACE := trace }) = _
    rw [e, ih]
    rfl

/-- The end of a cycle neither reads nor writes the bus and the trace. -/
theorem complete_bus (s : State) (bus : Transport) (trace : List Event) :
    complete { s with bus := bus, TRACE := trace } = { complete s with bus := bus, TRACE := trace } := by
  unfold complete closeCycle
  cases h : s.flash.PENDING with
  | none => rfl
  | erase a n => rfl
  | eraseAll => rfl
  | program ws => simp only [cycleEffect, programAll_bus]
  | writeSR v =>
    simp only [cycleEffect]
    split <;> rfl

/-- The end of a cycle, rule R60: WEL and BUSY clear, nothing pending, LEFT and everything outside the flash as it was,
but for the draws. -/
theorem complete_eq (s : State) :
    ∃ m prot draws, complete s = { s with
      draws := draws
      flash := { ARRAY := m, WEL := false, BUSY := false, PENDING := .none, LEFT := s.flash.LEFT, PROT := prot } } ∧
      m = (cycleEffect s.flash.PENDING s).flash.ARRAY ∧ prot = (cycleEffect s.flash.PENDING s).flash.PROT := by
  obtain ⟨m, p, d, e⟩ := cycleEffect_eq s.flash.PENDING s
  exact ⟨m, p, d, by unfold complete; rw [e]; rfl, by rw [e], by rw [e]⟩

/-! ## Status reads, rule R63 -/

/-- What a status read can be: the cycle completes, or it stays busy, or the flash was not busy. -/
theorem statusRead_cases (s : State) :
    (s.flash.BUSY = true ∧ s.flash.LEFT = .reads 0 ∧
      statusRead s = (statusByte (nextStatusBits (complete s)) false, drewStatusBits (complete s))) ∨
    (s.flash.BUSY = true ∧ s.flash.LEFT ≠ .reads 0 ∧
      statusRead s = (statusByte (nextStatusBits s) true,
        { drewStatusBits s with flash := { s.flash with LEFT := countDown s.flash.LEFT } })) ∨
    (s.flash.BUSY = false ∧ statusRead s = (statusByte (nextStatusBits s) false, drewStatusBits s)) := by
  by_cases hb : s.flash.BUSY = true
  · by_cases hl : s.flash.LEFT = .reads 0
    · refine Or.inl ⟨hb, hl, ?_⟩
      obtain ⟨m, p, d, e, _⟩ := complete_eq s
      simp [statusRead, completeIfDue, hb, hl, e]
    · exact Or.inr (Or.inl ⟨hb, hl, by simp [statusRead, completeIfDue, hb, hl]⟩)
  · rw [Bool.not_eq_true] at hb
    exact Or.inr (Or.inr ⟨hb, by simp [statusRead, completeIfDue, hb]⟩)

@[simp] theorem busyFlag_statusByte (o : BitVec 7) (b : Bool) : busyFlag (statusByte o b) = b := by
  revert o; cases b <;> decide

/-- The byte of a status read says whether the flash is busy after it. -/
theorem busyFlag_statusRead (s : State) : busyFlag (statusRead s).1 = (statusRead s).2.flash.BUSY := by
  rcases statusRead_cases s with ⟨_, _, e⟩ | ⟨h, _, e⟩ | ⟨h, e⟩
  · obtain ⟨m, p, d, e', _⟩ := complete_eq s
    rw [e, e']; simp
  · rw [e]; simp [h]
  · rw [e]; simp [h]

theorem statusRead_keeps (s : State) : KeepsControl s (statusRead s).2 := by
  rcases statusRead_cases s with ⟨_, _, e⟩ | ⟨_, _, e⟩ | ⟨_, e⟩
  · obtain ⟨m, p, d, e', _⟩ := complete_eq s
    rw [e, e']; exact KeepsControl.of_fields s _ _ _ _ _
  · rw [e]; exact KeepsControl.of_fields s _ _ _ _ _
  · rw [e]; exact KeepsControl.of_fields s _ _ _ _ _

/-- A status read touches only the flash and the draws. -/
theorem statusRead_frame (s : State) :
    (statusRead s).2.bus = s.bus ∧ (statusRead s).2.FAULT = s.FAULT ∧ (statusRead s).2.TRACE = s.TRACE := by
  rcases statusRead_cases s with ⟨_, _, e⟩ | ⟨_, _, e⟩ | ⟨_, e⟩
  · obtain ⟨m, p, d, e', _⟩ := complete_eq s
    rw [e, e']; exact ⟨rfl, rfl, rfl⟩
  · rw [e]; exact ⟨rfl, rfl, rfl⟩
  · rw [e]; exact ⟨rfl, rfl, rfl⟩

theorem statusRead_flashWf {s : State} {size : Nat} (h : flashWf size s.flash) :
    flashWf size (statusRead s).2.flash := by
  rcases statusRead_cases s with ⟨_, _, e⟩ | ⟨_, _, e⟩ | ⟨_, e⟩
  · obtain ⟨m, p, d, e', hm, _⟩ := complete_eq s
    rw [e, e']
    exact ⟨hm ▸ cycleEffect_wf h.1 h.2.2, by simp, trivial⟩
  · rw [e]; exact h
  · rw [e]; exact h

/-! ## Frame ends, rule R58 -/

theorem startCycle_flashWf {p : Cycle} {s : State} {size : Nat} (h : flashWf size s.flash) (hp : p.inRange size)
    (hn : p ≠ .none) : flashWf size (startCycle p s).flash :=
  ⟨h.1, by simp [hn], hp⟩

/-- What a frame end can do: raise a fault, nothing, set WEL, or start a cycle whose targets are in range. -/
theorem frameEnd_cases (latched : Bool) (s : State) :
    (∃ x, frameEnd latched s = raise x s) ∨ frameEnd latched s = s ∨
    frameEnd latched s = { s with flash := { s.flash with WEL := true } } ∨
    ∃ p, p ≠ .none ∧ p.inRange s.launch.FLASH_SIZE ∧ s.flash.WEL = true ∧ frameEnd latched s = startCycle p s := by
  unfold frameEnd
  split
  · exact Or.inr (Or.inl rfl)
  split
  · exact Or.inl ⟨_, rfl⟩
  split
  · exact Or.inl ⟨_, rfl⟩
  next k _ =>
  unfold frameChecks
  split
  · exact Or.inl ⟨_, rfl⟩
  split
  · exact Or.inl ⟨_, rfl⟩
  next hw =>
  split
  · exact Or.inl ⟨_, rfl⟩
  split
  · exact Or.inl ⟨_, rfl⟩
  split
  · exact Or.inl ⟨_, rfl⟩
  have hwel : needsEnable k = true → s.flash.WEL = true := by
    intro hk
    by_contra hc
    exact hw ⟨hk, by simpa using hc⟩
  cases k with
  | rdid => exact Or.inr (Or.inl rfl)
  | rdsr => exact Or.inr (Or.inl rfl)
  | wren =>
    simp only [frameEffect]
    split
    · exact Or.inl ⟨_, rfl⟩
    · exact Or.inr (Or.inr (Or.inl rfl))
  | se =>
    simp only [frameEffect]
    split
    · exact Or.inl ⟨_, rfl⟩
    split
    · exact Or.inl ⟨_, rfl⟩
    split
    · exact Or.inl ⟨_, rfl⟩
    next hr =>
    exact Or.inr (Or.inr (Or.inr ⟨_, by simp, by simpa using hr, hwel rfl, rfl⟩))
  | pp =>
    simp only [frameEffect]
    split
    · exact Or.inl ⟨_, rfl⟩
    split
    · exact Or.inl ⟨_, rfl⟩
    next hr =>
    refine Or.inr (Or.inr (Or.inr ⟨_, by simp, ?_, hwel rfl, rfl⟩))
    intro x hx
    by_contra hc
    exact hr (List.any_eq_true.mpr ⟨x, hx, by simpa using hc⟩)
  | ce =>
    simp only [frameEffect]
    split
    · exact Or.inl ⟨_, rfl⟩
    exact Or.inr (Or.inr (Or.inr ⟨_, by simp, trivial, hwel rfl, rfl⟩))
  | wrsr =>
    simp only [frameEffect]
    split
    · exact Or.inl ⟨_, rfl⟩
    exact Or.inr (Or.inr (Or.inr ⟨_, by simp, trivial, hwel rfl, rfl⟩))

/-- A frame that GO did not end raises a fault or does nothing. -/
theorem frameEnd_unlatched (s : State) : (∃ x, frameEnd false s = raise x s) ∨ frameEnd false s = s := by
  unfold frameEnd
  split
  · exact Or.inr rfl
  split
  · exact Or.inl ⟨_, rfl⟩
  split
  · exact Or.inl ⟨_, rfl⟩
  next k _ =>
  cases hl : needsLatch k with
  | true => exact Or.inl ⟨.unlatchedCommand, by simp [frameChecks, hl]⟩
  | false =>
    by_cases h : s.bus.FRAME.length = 1
    · exact Or.inr (by cases k <;> simp_all [frameChecks, needsLatch, needsEnable, needsUnlocked, isRead, frameEffect])
    · exact Or.inl ⟨.malformedFrame, by
        cases k <;> simp_all [frameChecks, needsLatch, needsEnable, needsUnlocked, isRead]⟩

theorem frameEnd_keeps (latched : Bool) (s : State) : KeepsControl s (frameEnd latched s) := by
  rcases frameEnd_cases latched s with ⟨x, e⟩ | e | e | ⟨p, _, _, _, e⟩ <;> rw [e]
  · exact raise_keeps x s
  · exact KeepsControl.refl s
  · exact KeepsControl.of_fields s _ _ _ _ _
  · exact startCycle_keeps p s

/-- A frame end touches neither the bus nor the trace. -/
theorem frameEnd_frame (latched : Bool) (s : State) :
    (frameEnd latched s).bus = s.bus ∧ (frameEnd latched s).TRACE = s.TRACE := by
  rcases frameEnd_cases latched s with ⟨x, e⟩ | e | e | ⟨p, _, _, _, e⟩ <;> rw [e] <;> exact ⟨rfl, rfl⟩

theorem frameEnd_flashWf {latched : Bool} {s : State} (h : flashWf s.launch.FLASH_SIZE s.flash) :
    flashWf s.launch.FLASH_SIZE (frameEnd latched s).flash := by
  rcases frameEnd_cases latched s with ⟨x, e⟩ | e | e | ⟨p, hn, hr, _, e⟩ <;> rw [e]
  · exact h
  · exact h
  · exact h
  · exact startCycle_flashWf h hr hn

end Sys2Proof.Machine
end

