-- ==== Sys2Proof/Laws/Transport.lean ====
section
/-! SUPPORT. What each transport primitive can do, and what it does when its precondition holds. -/

namespace Sys2Proof.Machine

/-! ## Frame ends of a given command -/

/-- A frame that begins with a command's opcode reaches that command's checks, unless it meets a busy flash. -/
theorem frameEnd_opcode {s : State} (hv : s.cfg.Valid) {k : Command} {rest : List Byte}
    (hf : s.bus.FRAME = s.cfg.opcode k :: rest) (hb : s.flash.BUSY = false ∨ k = .rdsr) (latched : Bool) :
    frameEnd latched s = frameChecks k latched s := by
  unfold frameEnd
  rw [hf]
  have hcond : ¬ (s.flash.BUSY = true ∧ s.cfg.opcode k ≠ s.cfg.OP_RDSR) := by
    rintro ⟨h1, h2⟩
    rcases hb with hb | rfl
    · simp [hb] at h1
    · exact h2 rfl
  simp only [if_neg hcond, commandOf_opcode hv]

/-- A whole RDSR frame ends without effect (rule R58). -/
theorem frameEnd_rdsr {s : State} (hv : s.cfg.Valid) (hf : s.bus.FRAME = [s.cfg.OP_RDSR]) (latched : Bool) :
    frameEnd latched s = s := by
  rw [frameEnd_opcode hv (k := .rdsr) hf (Or.inr rfl)]
  simp [frameChecks, needsLatch, needsEnable, needsUnlocked, isRead, frameEffect, hf]

/-- A whole RDID frame at a flash that is not busy ends without effect (rule R97). -/
theorem frameEnd_rdid {s : State} (hv : s.cfg.Valid) (hf : s.bus.FRAME = [s.cfg.OP_RDID])
    (hb : s.flash.BUSY = false) (latched : Bool) : frameEnd latched s = s := by
  rw [frameEnd_opcode hv (k := .rdid) hf (Or.inl hb)]
  simp [frameChecks, needsLatch, needsEnable, needsUnlocked, isRead, frameEffect, hf]

/-- A whole latched WREN frame at a flash that is not busy sets WEL (rule R98). -/
theorem frameEnd_wren {s : State} (hv : s.cfg.Valid) (hf : s.bus.FRAME = [s.cfg.OP_WREN])
    (hr : s.bus.FRAME_RD = .none) (hb : s.flash.BUSY = false) :
    frameEnd true s = { s with flash := { s.flash with WEL := true } } := by
  rw [frameEnd_opcode hv (k := .wren) hf (Or.inl hb)]
  simp [frameChecks, needsLatch, needsEnable, needsUnlocked, isRead, frameEffect, hf, hr]

/-- A latched mutating frame that is accepted by the checks of rule R58 reaches its effect. -/
theorem frameEnd_mutating {s : State} (hv : s.cfg.Valid) {k : Command} {rest : List Byte}
    (hf : s.bus.FRAME = s.cfg.opcode k :: rest) (hr : s.bus.FRAME_RD = .none) (hb : s.flash.BUSY = false)
    (hw : s.flash.WEL = true) (hp : needsUnlocked k = true → s.flash.PROT = false) (hk : isRead k = false) :
    frameEnd true s = frameEffect k s := by
  rw [frameEnd_opcode hv hf (Or.inl hb)]
  cases h : needsUnlocked k <;> simp_all [frameChecks]

/-! ## The end of an open frame -/

/-- An open frame that can be ended is ended without effect. -/
theorem endOpenFrame_ok {s : State} (hv : s.cfg.Valid) (h : OpenFrameEnds s) : endOpenFrame s = s := by
  unfold endOpenFrame
  split
  · next hc =>
    rcases h hc with h | h | ⟨h, hb⟩
    · simp [frameEnd, h]
    · exact frameEnd_rdsr hv h false
    · exact frameEnd_rdid hv h hb false
  · rfl

/-- The end of an open frame raises a fault or does nothing. -/
theorem endOpenFrame_cases (s : State) : (∃ x, endOpenFrame s = raise x s) ∨ endOpenFrame s = s := by
  unfold endOpenFrame
  split
  · exact frameEnd_unlatched s
  · exact Or.inr rfl

/-! ## The primitives when their preconditions hold -/

theorem regWr_spiFs (v : Bool) (t : Transport) :
    regWr .spiFs (BitVec.setWidth 32 (BitVec.ofBool v)) t = { t with FS := v, SPI_FS_OTHER := 0#31 } := by
  cases v <;> rfl

/-- FS_SET(1), rule R73. -/
theorem fsSet_on {s : State} (hf : s.FAULT = none) :
    fsSet true s = emit (.fsSet true) { s with bus := { s.bus with FS := true, SPI_FS_OTHER := 0#31 } } := by
  unfold fsSet
  rw [if_pos rfl, andThen_ok hf, regWr_spiFs]

/-- FS_SET(0), rule R73. -/
theorem fsSet_off {s : State} (hf : s.FAULT = none) (hv : s.cfg.Valid) (h : OpenFrameEnds s) :
    fsSet false s =
      emit (.fsSet false) { s with bus := { s.bus with CS := false, FS := false, SPI_FS_OTHER := 0#31 } } := by
  unfold fsSet
  rw [if_neg (by simp), endOpenFrame_ok hv h, andThen_ok hf]
  refine (andThen_ok (by exact hf) _).trans ?_
  rw [regWr_spiFs]

/-- CS_START, rule R75. -/
theorem csStart_ok {s : State} (h : CanOpen s) :
    csStart s = emit .csStart { s with bus := { s.bus with CS := true, FRAME := [], FRAME_RD := .none } } := by
  obtain ⟨hf, hv, hs, ho⟩ := h
  simp [csStart, hs, endOpenFrame_ok hv ho, andThen_ok hf]

theorem canSend_eq {s : State} : canSend s = true ↔ s.bus.CS = true ∧ s.bus.FRAME_RD = .none := by
  simp [canSend]

/-- TX, rule R76. -/
theorem tx_ok {s : State} (hc : s.bus.CS = true) (hr : s.bus.FRAME_RD = .none) (b : Byte) :
    tx b s = emit (.tx b) { s with bus := { s.bus with FRAME := s.bus.FRAME ++ [b] } } := by
  simp [tx, canSend, hc, hr]

/-- TX_ADDR, rule R77. -/
theorem txAddr_ok {s : State} (hc : s.bus.CS = true) (hr : s.bus.FRAME_RD = .none) {a : U32}
    (ha : fits24 a = true) :
    txAddr a s =
      emit (.txAddr (a.extractLsb' 0 24)) { s with bus := { s.bus with FRAME := s.bus.FRAME ++ addrBytes a } } := by
  simp [txAddr, canSend, hc, hr, ha]

/-- DELAY, rule R78. -/
theorem delay_ok {s : State} (hc : s.bus.CS = true) (hr : s.bus.FRAME_RD = .none) :
    delay s = emit .delay { s with bus := { s.bus with FRAME_RD := .opened } } := by
  simp [delay, canSend, hc, hr]

/-- RX, rule R79. -/
theorem rx_ok {s : State} (hc : s.bus.CS = true) (hf : s.bus.FRAME = [s.cfg.OP_RDSR])
    (hr : s.bus.FRAME_RD = .opened) (k : Byte → State → State) :
    rx k s = k (statusRead s).1 (emit (.rx (statusRead s).1) (fetched [(statusRead s).1] (statusRead s).2)) := by
  simp [rx, canFetch, hc, hf, hr]

/-- RX_ID, rule R80. -/
theorem rxId_ok {s : State} (hc : s.bus.CS = true) (hf : s.bus.FRAME = [s.cfg.OP_RDID])
    (hr : s.bus.FRAME_RD = .opened) (hb : s.flash.BUSY = false) (k : List Byte → State → State) :
    rxId k s = k (drawBytes s.cfg.RDID_LEN s).1
      (emit (.rxId (drawBytes s.cfg.RDID_LEN s).1)
        (fetched (drawBytes s.cfg.RDID_LEN s).1 (drawBytes s.cfg.RDID_LEN s).2)) := by
  simp [rxId, canFetch, hc, hf, hr, hb]

/-- GO, rule R81, where the frame end raises no fault. -/
theorem go_ok {s : State} (hc : s.bus.CS = true) (hf : (frameEnd true s).FAULT = none) :
    go s = emit .go { frameEnd true s with bus := { (frameEnd true s).bus with CS := false } } := by
  simp [go, hc, andThen_ok hf]

/-- GO where the frame end raises a fault. -/
theorem go_fault {s : State} (hc : s.bus.CS = true) {x : Fault} (hf : frameEnd true s = raise x s) :
    go s = raise x s := by
  simp [go, hc, hf]

/-- GO on a whole WREN frame at a flash that is not busy, rule R98. -/
theorem go_wren {s : State} (hn : s.FAULT = none) (hv : s.cfg.Valid) (hc : s.bus.CS = true)
    (hf : s.bus.FRAME = [s.cfg.OP_WREN]) (hr : s.bus.FRAME_RD = .none) (hb : s.flash.BUSY = false) :
    go s = emit .go { s with bus := { s.bus with CS := false }, flash := { s.flash with WEL := true } } := by
  have e := frameEnd_wren hv hf hr hb
  rw [go_ok hc (by rw [e]; exact hn), e]

/-- GO on a whole RDID frame at a flash that is not busy, rule R97. -/
theorem go_rdid {s : State} (hn : s.FAULT = none) (hv : s.cfg.Valid) (hc : s.bus.CS = true)
    (hf : s.bus.FRAME = [s.cfg.OP_RDID]) (hb : s.flash.BUSY = false) :
    go s = emit .go { s with bus := { s.bus with CS := false } } := by
  have e := frameEnd_rdid hv hf hb true
  rw [go_ok hc (by rw [e]; exact hn), e]

/-- GO on a frame that starts a cycle, rule R59. -/
theorem go_starts {s : State} {p : Cycle} (hn : s.FAULT = none) (hc : s.bus.CS = true)
    (hf : frameEnd true s = startCycle p s) :
    go s = emit .go { startCycle p s with bus := { s.bus with CS := false } } := by
  rw [go_ok hc (by rw [hf]; exact hn), hf]
  rfl

/-- ISSUE, rule R95. -/
theorem issue_ok {s : State} (h : CanOpen s) (op : Byte) :
    issue op s = { s with
      bus := { s.bus with CS := true, FRAME := [op], FRAME_RD := .none }
      TRACE := s.TRACE ++ [.csStart, .tx op] } := by
  unfold issue
  rw [csStart_ok h, andThen_ok (by exact h.1), tx_ok rfl rfl]
  simp [emit]

/-- ISSUE_ADDR, rule R96. -/
theorem issueAddr_ok {s : State} (h : CanOpen s) (op : Byte) {a : U32} (ha : fits24 a = true) :
    issueAddr op a s = { s with
      bus := { s.bus with CS := true, FRAME := op :: addrBytes a, FRAME_RD := .none }
      TRACE := s.TRACE ++ [.csStart, .tx op, .txAddr (BitVec.ofNat 24 a.toNat)] } := by
  unfold issueAddr
  rw [issue_ok h, andThen_ok (by exact h.1), txAddr_ok rfl rfl ha]
  simp [emit, BitVec.extractLsb']

/-- The bytes of a list sent one by one. -/
theorem txAll_ok (bs : List Byte) {s : State} (hn : s.FAULT = none) (hc : s.bus.CS = true)
    (hr : s.bus.FRAME_RD = .none) :
    txAll bs s =
      { s with bus := { s.bus with FRAME := s.bus.FRAME ++ bs }, TRACE := s.TRACE ++ bs.map Event.tx } := by
  induction bs generalizing s with
  | nil => simp [txAll]
  | cons b bs ih =>
    show (tx b s).andThen (txAll bs) = _
    rw [tx_ok hc hr, andThen_ok (by exact hn), ih (by exact hn) (by exact hc) (by exact hr)]
    simp [emit]

/-! ## What every primitive leaves alone -/

theorem endOpenFrame_keeps (s : State) : KeepsControl s (endOpenFrame s) := by
  rcases endOpenFrame_cases s with ⟨x, e⟩ | e <;> rw [e]
  · exact raise_keeps x s
  · exact KeepsControl.refl s

theorem fsSet_keeps (v : Bool) (s : State) : KeepsControl s (fsSet v s) := by
  unfold fsSet
  refine KeepsControl.andThen ?_ (fun u => KeepsControl.of_fields u _ _ _ _ _)
  split
  · exact KeepsControl.refl s
  · exact (endOpenFrame_keeps s).andThen (fun u => KeepsControl.of_fields u _ _ _ _ _)

theorem clkSet_keeps (d : U32) (s : State) : KeepsControl s (clkSet d s) :=
  KeepsControl.of_fields s _ _ _ _ _

theorem csStart_keeps (s : State) : KeepsControl s (csStart s) := by
  unfold csStart
  split
  · exact raise_keeps _ s
  · exact (endOpenFrame_keeps s).andThen (fun u => KeepsControl.of_fields u _ _ _ _ _)

theorem tx_keeps (b : Byte) (s : State) : KeepsControl s (tx b s) := by
  unfold tx
  split
  · exact KeepsControl.of_fields s _ _ _ _ _
  · exact raise_keeps _ s

theorem txAddr_keeps (a : U32) (s : State) : KeepsControl s (txAddr a s) := by
  unfold txAddr
  split
  · exact raise_keeps _ s
  split
  · exact KeepsControl.of_fields s _ _ _ _ _
  · exact raise_keeps _ s

theorem delay_keeps (s : State) : KeepsControl s (delay s) := by
  unfold delay
  split
  · exact KeepsControl.of_fields s _ _ _ _ _
  · exact raise_keeps _ s

theorem go_keeps (s : State) : KeepsControl s (go s) := by
  unfold go
  split
  · exact (frameEnd_keeps true s).andThen (fun u => KeepsControl.of_fields u _ _ _ _ _)
  · exact raise_keeps _ s

theorem issue_keeps (op : Byte) (s : State) : KeepsControl s (issue op s) :=
  (csStart_keeps s).andThen (tx_keeps op)

theorem issueAddr_keeps (op : Byte) (a : U32) (s : State) : KeepsControl s (issueAddr op a s) :=
  (issue_keeps op s).andThen (txAddr_keeps a)

theorem txAll_keeps (bs : List Byte) (s : State) : KeepsControl s (txAll bs s) := by
  induction bs generalizing s with
  | nil => exact KeepsControl.refl s
  | cons b bs ih => exact (tx_keeps b s).andThen ih

theorem sendRaw_keeps (bs : List Byte) (s : State) : KeepsControl s (sendRaw bs s) :=
  ((csStart_keeps s).andThen (txAll_keeps bs)).andThen go_keeps

/-- The state RX hands to its caller. -/
theorem rx_state_keeps (v : Byte) (bs : List Byte) (s : State) :
    KeepsControl s (emit (.rx v) (fetched bs (statusRead s).2)) :=
  (statusRead_keeps s).trans (KeepsControl.of_fields _ _ _ _ _ _)

/-- RX either raises MalformedFrame or hands the status byte and the state after the read to its caller. -/
theorem rx_cases (k : Byte → State → State) (s : State) :
    rx k s = raise .malformedFrame s ∨
    rx k s = k (statusRead s).1 (emit (.rx (statusRead s).1) (fetched [(statusRead s).1] (statusRead s).2)) := by
  unfold rx
  split
  · exact Or.inr rfl
  · exact Or.inl rfl

/-- The state RX_ID hands to its caller. -/
theorem rxId_state_keeps (n : Nat) (ids bs : List Byte) (s : State) :
    KeepsControl s (emit (.rxId ids) (fetched bs (drawBytes n s).2)) := by
  rw [drawBytes_eq]
  exact KeepsControl.of_fields s _ _ _ _ _

/-- RX_ID either raises a fault or hands the drawn bytes to its caller. -/
theorem rxId_cases (k : List Byte → State → State) (s : State) :
    (∃ x, rxId k s = raise x s) ∨
    rxId k s = k (drawBytes s.cfg.RDID_LEN s).1
      (emit (.rxId (drawBytes s.cfg.RDID_LEN s).1)
        (fetched (drawBytes s.cfg.RDID_LEN s).1 (drawBytes s.cfg.RDID_LEN s).2)) := by
  unfold rxId
  split
  · split
    · exact Or.inl ⟨_, rfl⟩
    · exact Or.inr rfl
  · exact Or.inl ⟨_, rfl⟩

theorem runCall_keeps (p : Call) (s : State) : KeepsControl s (runCall p s) := by
  cases p with
  | fs v => exact fsSet_keeps v s
  | clk d => exact clkSet_keeps d s
  | cs => exact csStart_keeps s
  | tx b => exact tx_keeps b s
  | txa a => exact txAddr_keeps a s
  | delay => exact delay_keeps s
  | rx =>
    rcases rx_cases (fun _ t => t) s with e | e <;> simp only [runCall, e]
    · exact raise_keeps _ s
    · exact rx_state_keeps _ _ s
  | rxid =>
    rcases rxId_cases (fun _ t => t) s with ⟨x, e⟩ | e <;> simp only [runCall, e]
    · exact raise_keeps _ s
    · exact rxId_state_keeps _ _ _ s
  | go => exact go_keeps s

/-! ## The flash stays well formed -/

/-- The launch inputs as before, and a well-formed flash stays well formed. -/
abbrev KeepsFlashWf (s t : State) : Prop :=
  t.launch = s.launch ∧ (flashWf s.launch.FLASH_SIZE s.flash → flashWf t.launch.FLASH_SIZE t.flash)

theorem KeepsFlashWf.refl (s : State) : KeepsFlashWf s s := ⟨rfl, id⟩

theorem KeepsFlashWf.trans {s t u : State} (h : KeepsFlashWf s t) (g : KeepsFlashWf t u) : KeepsFlashWf s u :=
  ⟨g.1.trans h.1, fun x => g.2 (h.2 x)⟩

theorem KeepsFlashWf.andThen {s t : State} {f : State → State} (h : KeepsFlashWf s t)
    (g : ∀ u, KeepsFlashWf u (f u)) : KeepsFlashWf s (t.andThen f) := by
  rcases andThen_cases t f with ⟨_, e⟩ | ⟨_, _, e⟩
  · rw [e]; exact h.trans (g t)
  · rw [e]; exact h

/-- An update that touches neither the launch inputs nor the flash. -/
theorem KeepsFlashWf.of_eq {s t : State} (hl : t.launch = s.launch) (hf : t.flash = s.flash) : KeepsFlashWf s t :=
  ⟨hl, fun h => by rw [hl, hf]; exact h⟩

theorem endOpenFrame_flashWf (s : State) : KeepsFlashWf s (endOpenFrame s) := by
  rcases endOpenFrame_cases s with ⟨x, e⟩ | e <;> rw [e]
  · exact .of_eq rfl rfl
  · exact .refl s

theorem fsSet_flashWf (v : Bool) (s : State) : KeepsFlashWf s (fsSet v s) := by
  unfold fsSet
  refine KeepsFlashWf.andThen ?_ (fun u => .of_eq rfl rfl)
  split
  · exact .refl s
  · exact (endOpenFrame_flashWf s).andThen (fun u => .of_eq rfl rfl)

theorem csStart_flashWf (s : State) : KeepsFlashWf s (csStart s) := by
  unfold csStart
  split
  · exact .of_eq rfl rfl
  · exact (endOpenFrame_flashWf s).andThen (fun u => .of_eq rfl rfl)

theorem tx_flashWf (b : Byte) (s : State) : KeepsFlashWf s (tx b s) := by
  unfold tx
  split <;> exact .of_eq rfl rfl

theorem txAddr_flashWf (a : U32) (s : State) : KeepsFlashWf s (txAddr a s) := by
  unfold txAddr
  split
  · exact .of_eq rfl rfl
  split <;> exact .of_eq rfl rfl

theorem delay_flashWf (s : State) : KeepsFlashWf s (delay s) := by
  unfold delay
  split <;> exact .of_eq rfl rfl

theorem go_flashWf (s : State) : KeepsFlashWf s (go s) := by
  unfold go
  split
  · refine KeepsFlashWf.andThen ⟨(frameEnd_keeps true s).launch, fun h => ?_⟩ (fun u => .of_eq rfl rfl)
    rw [(frameEnd_keeps true s).launch]
    exact frameEnd_flashWf h
  · exact .of_eq rfl rfl

theorem issue_flashWf (op : Byte) (s : State) : KeepsFlashWf s (issue op s) :=
  (csStart_flashWf s).andThen (tx_flashWf op)

theorem issueAddr_flashWf (op : Byte) (a : U32) (s : State) : KeepsFlashWf s (issueAddr op a s) :=
  (issue_flashWf op s).andThen (txAddr_flashWf a)

theorem txAll_flashWf (bs : List Byte) (s : State) : KeepsFlashWf s (txAll bs s) := by
  induction bs generalizing s with
  | nil => exact .refl s
  | cons b bs ih => exact (tx_flashWf b s).andThen ih

theorem sendRaw_flashWf (bs : List Byte) (s : State) : KeepsFlashWf s (sendRaw bs s) :=
  ((csStart_flashWf s).andThen (txAll_flashWf bs)).andThen go_flashWf

theorem statusRead_keepsFlashWf (s : State) : KeepsFlashWf s (statusRead s).2 := by
  refine ⟨(statusRead_keeps s).launch, fun h => ?_⟩
  rw [(statusRead_keeps s).launch]
  exact statusRead_flashWf h

theorem rx_flashWf {k : Byte → State → State} (hk : ∀ v u, KeepsFlashWf u (k v u)) (s : State) :
    KeepsFlashWf s (rx k s) := by
  rcases rx_cases k s with e | e <;> rw [e]
  · exact .of_eq rfl rfl
  · exact ((statusRead_keepsFlashWf s).trans (.of_eq rfl rfl)).trans (hk _ _)

theorem rxId_flashWf {k : List Byte → State → State} (hk : ∀ v u, KeepsFlashWf u (k v u)) (s : State) :
    KeepsFlashWf s (rxId k s) := by
  rcases rxId_cases k s with ⟨x, e⟩ | e <;> rw [e]
  · exact .of_eq rfl rfl
  · refine KeepsFlashWf.trans ?_ (hk _ _)
    rw [drawBytes_eq]
    exact .of_eq rfl rfl

theorem runCall_flashWf (p : Call) (s : State) : KeepsFlashWf s (runCall p s) := by
  cases p with
  | fs v => exact fsSet_flashWf v s
  | clk d => exact .of_eq rfl rfl
  | cs => exact csStart_flashWf s
  | tx b => exact tx_flashWf b s
  | txa a => exact txAddr_flashWf a s
  | delay => exact delay_flashWf s
  | rx => exact rx_flashWf (fun _ u => .refl u) s
  | rxid => exact rxId_flashWf (fun _ u => .refl u) s
  | go => exact go_flashWf s

end Sys2Proof.Machine
end

