-- ==== Sys2Proof/Laws/Microprogram.lean ====
section
/-! SUPPORT. What the shared parts of the microprogram can do, and what a step is while a request is in progress. -/

namespace Sys2Proof.Machine

/-! ## Steps -/

/-- A step while a request is in progress is the microprogram's step. -/
theorem step_active {s : State} (hf : s.FAULT = none) (hr : s.RESET_LINE = none) (ha : s.ACTIVE ≠ none) :
    step s = .next (microStep s) := by
  cases h : s.ACTIVE with
  | none => exact absurd h ha
  | some r => simp [step, fetch, fetchMove, hf, hr, h]

/-- A step with a reset pending is the reset. -/
theorem step_reset {s : State} {e : ResetEvent} (hf : s.FAULT = none) (hr : s.RESET_LINE = some e) :
    step s = .next (applyReset e s) := by
  simp [step, fetch, hf, hr]

/-! ## Parts -/

/-- A read of a register either goes on with its value or raises ReadUnset. -/
theorem need_cases {α : Type} (r : Option α) (s : State) (k : α → State) :
    (∃ v, r = some v ∧ need r s k = k v) ∨ (r = none ∧ need r s k = raise .readUnset s) := by
  cases r with
  | none => exact Or.inr ⟨rfl, rfl⟩
  | some v => exact Or.inl ⟨v, rfl, rfl⟩

/-- "End with c", rule R118: everything but ACTIVE, RESULT, PHASE, pc and TRACE is as before. -/
theorem endWith_eq (c : Result) (s : State) :
    endWith c s = { s with
      TRACE := s.TRACE ++ [.res c], RESULT := some c, ACTIVE := none, PHASE := .idle, pc := .haltIdle } := rfl

/-- FS_SET(1) of ENABLE, rule R106. -/
theorem enableFs_ok {s : State} (hf : s.FAULT = none) (o : Operation) :
    enableFs o s = { s with
      pc := .enCs o
      bus := { s.bus with FS := true, SPI_FS_OTHER := 0#31 }
      TRACE := s.TRACE ++ [.fsSet true] } := by
  unfold enableFs
  rw [fsSet_on hf, andThen_ok (by exact hf)]
  rfl

/-- CS_START of a poll's iteration, rule R109. -/
theorem pollCs_ok {s : State} (h : CanOpen s) (o : Operation) :
    pollCs o s = { s with
      pc := .pollTx o
      bus := { s.bus with CS := true, FRAME := [], FRAME_RD := .none }
      TRACE := s.TRACE ++ [.csStart] } := by
  unfold pollCs
  rw [csStart_ok h, andThen_ok (by exact h.1)]
  rfl

/-- The status read of a poll's iteration, rule R109: STATUS is the byte read, and the tests come next. -/
theorem pollRx_ok {s : State} (hc : s.bus.CS = true) (hf : s.bus.FRAME = [s.cfg.OP_RDSR])
    (hr : s.bus.FRAME_RD = .opened) (o : Operation) :
    pollRx o s = goTo (.pollTest o) (setStatus (statusRead s).1
      (emit (.rx (statusRead s).1) (fetched [(statusRead s).1] (statusRead s).2))) := by
  unfold pollRx
  rw [rx_ok hc hf hr]

/-! ## The tests of POLL, rules R109 and R111 -/

/-- A status that is not busy: the last read is counted and POLL returns. -/
theorem pollTest_return {s : State} {o : Operation} {v : Byte} {n : Nat} (hs : s.work.STATUS = some v)
    (hn : s.work.POLLS = some n) (hv : busyFlag v = false) :
    pollTest o s = pollReturn o { s with PHASE := .idle, work := { s.work with POLLS := some (n + 1) } } := by
  simp [pollTest, hs, hn, hv, setPhase]

/-- A busy status below the limit: another iteration. -/
theorem pollTest_again {s : State} {o : Operation} {v : Byte} {n : Nat} (hs : s.work.STATUS = some v)
    (hn : s.work.POLLS = some n) (hv : busyFlag v = true) (hl : atLimit s.cfg (n + 1) = false) :
    pollTest o s = pollCs o { s with work := { s.work with POLLS := some (n + 1) } } := by
  simp [pollTest, hs, hn, hv, hl]

/-- A busy status at the limit: the request ends with Timeout. -/
theorem pollTest_timeout {s : State} {o : Operation} {v : Byte} {n : Nat} (hs : s.work.STATUS = some v)
    (hn : s.work.POLLS = some n) (hv : busyFlag v = true) (hl : atLimit s.cfg (n + 1) = true) :
    pollTest o s =
      endWith .timeout { s with PHASE := .idle, work := { s.work with POLLS := some (n + 1) } } := by
  simp [pollTest, hs, hn, hv, hl, setPhase]

@[simp] theorem atLimit_unbounded {c : Config} (h : c.POLL_LIMIT = none) (n : Nat) : atLimit c n = false := by
  simp [atLimit, h]

/-! ## A sector's visit, rules R126 and R127 -/

/-- The visit of a sector: the address fits and ENABLE begins, or it does not fit. -/
theorem eraseSector_cases {s : State} (hf : s.FAULT = none) {size : Nat} (hs : sectorSize s = some size) (i : I32) :
    (fitSectorAddress (sectorAddress i size) = none ∧ eraseSector i s = raise .addrOverflow s) ∨
    ∃ a, fitSectorAddress (sectorAddress i size) = some a ∧
      eraseSector i s = { s with
        work := { s.work with ADDR := some a }
        pc := .enCs .sector
        bus := { s.bus with FS := true, SPI_FS_OTHER := 0#31 }
        TRACE := s.TRACE ++ [.fsSet true] } := by
  unfold eraseSector
  rw [hs, need_some]
  cases h : fitSectorAddress (sectorAddress i size) with
  | none => exact Or.inl ⟨rfl, rfl⟩
  | some a => exact Or.inr ⟨a, rfl, enableFs_ok (by exact hf) .sector⟩

/-- `fitSectorAddress` is the range check of rule R126. -/
theorem fitSectorAddress_eq_some {p : Int} {a : U32} :
    fitSectorAddress p = some a ↔ 0 ≤ p ∧ p < 2 ^ 24 ∧ (a.toNat : Int) = p := by
  unfold fitSectorAddress
  constructor
  · intro h
    split at h
    · cases h
    · next hn =>
      obtain rfl := Option.some.inj h
      simp only [FLASH_ADDR_BITS] at hn
      simp only [BitVec.toNat_ofNat]
      omega
  · rintro ⟨h0, h1, h2⟩
    rw [if_neg (by simp only [FLASH_ADDR_BITS]; omega)]
    congr 1
    apply BitVec.eq_of_toNat_eq
    simp only [BitVec.toNat_ofNat]
    omega

end Sys2Proof.Machine
end

