-- ==== Sys2Proof/Laws/PerInstr.lean ====
section
/-! SUPPORT. A property of every instruction as syntax: its encoding is not empty, and a frame's carries at most
4 + PAGE_SIZE bytes (spec/30_encoding.md rule R85). -/

namespace Sys2Proof.Laws.EncodesInFormat

/-- The length bound of rule R85, for every configuration. -/
def Statement (i : Instr) : Prop :=
  ∀ c : Config, i.wellFormed c = true →
    encode c i ≠ [] ∧ (i.level = .frame → (encode c i).length ≤ 4 + c.PAGE_SIZE)

theorem rdid : Statement .rdid := fun _ _ => ⟨by simp [encode], fun _ => by simp [encode]; omega⟩

theorem wren : Statement .wren := fun _ _ => ⟨by simp [encode], fun _ => by simp [encode]; omega⟩

theorem rdsr : Statement .rdsr := fun _ _ => ⟨by simp [encode], fun _ => by simp [encode]; omega⟩

theorem se (a : U32) : Statement (.se a) := fun _ _ =>
  ⟨by simp [encode], fun _ => by simp [encode, Machine.addrBytes]⟩

theorem pp (a : U32) (data : List Byte) : Statement (.pp a data) := fun c h => by
  have hd : Machine.dataFits c data = true := (Bool.and_eq_true_iff.mp h).2
  have hl := (of_decide_eq_true hd).2.1
  exact ⟨by simp [encode], fun _ => by simp [encode, Machine.addrBytes]; omega⟩

theorem ce : Statement .ce := fun _ _ => ⟨by simp [encode], fun _ => by simp [encode]; omega⟩

theorem wrsr (v : Byte) : Statement (.wrsr v) := fun _ _ => ⟨by simp [encode], fun _ => by simp [encode]; omega⟩

theorem init : Statement .init := fun _ _ => ⟨by simp [encode], fun h => by cases h⟩

theorem erase (first last : I32) : Statement (.erase first last) := fun _ _ =>
  ⟨by simp [encode], fun h => by cases h⟩

theorem write (dest : U32) (data : List Byte) : Statement (.write dest data) := fun _ _ =>
  ⟨by simp [encode], fun h => by cases h⟩

end Sys2Proof.Laws.EncodesInFormat
end

