-- ==== Sys2Proof/Tests/Slice0.lean ====
section
/-! SUPPORT. Tests of one step or one frame each, with results from spec/95_test_vectors.md, and for each obligation
with hypotheses a state and operands that meet them. -/

namespace Sys2Proof.Tests

open Sys2Proof Sys2Proof.Machine

/-! ## Helpers -/

/-- The defaults of rule R10 with divisors that are numbers. -/
def cfg : Config := { Config.default with CLK_DIV_GENERIC := 4#32, CLK_DIV_BYTE := 8#32 }

/-- The same for the byte-programmable variant. -/
def cfgByte : Config := { cfg with VARIANT := .byteProgrammable }

/-- A transport in bit-bang mode with no frame open. -/
def quietBus : Transport := ⟨true, 0#31, 0#32, 0#32, [], false, [], .none⟩

/-- The flash of section 2.2 of 95_test_vectors.md: idle and erased, with WEL and PROT as given. -/
def chip (wel prot : Bool) : Flash := ⟨[], wel, false, .none, .reads 0, prot⟩

/-- A flash in the middle of a cycle. -/
def busyChip (p : Cycle) (left : Duration) : Flash := ⟨[], true, true, p, left, false⟩

/-- Draws: durations 0, status bits 0, ID bytes EF 40 16. -/
def draws : Draws := ⟨[.reads 0, .reads 0, .reads 0], [0#7, 0#7], [0xEF#8, 0x40#8, 0x16#8], [true], 0⟩

/-- Between requests, FS = 1, the flash as given. -/
def bench (f : Flash) : State :=
  { State.powerOn cfg Launch.default [] with bus := quietBus, flash := f, draws := draws }

/-- After a successful INIT with geometry 0x400000, 64. -/
def inited : State :=
  { bench (chip false false) with GEOM := some ⟨0x400000#32, 64#32⟩, INIT_DONE := true }

/-- The same where ERASE does not release FS. -/
def initedKeepsFs : State := { inited with cfg := { cfg with ERASE_RELEASES_FS := false } }

/-- The same in the byte-programmable variant, after the unlock. -/
def initedByte : State := { inited with cfg := cfgByte }

/-- A request in progress at a label. -/
def during (r : Request) (l : Label) (s : State) : State :=
  { s with ACTIVE := some r, pc := l }

/-- An open frame holding `bytes`. -/
def sending (bytes : List Byte) (w : ReadWindow) (s : State) : State :=
  { s with bus := { s.bus with CS := true, FRAME := bytes, FRAME_RD := w } }

/-- The next state of an outcome. -/
def after : Host.Outcome State Fault Refusal → Option State
  | .next t => some t
  | .fault _ => none
  | .refused _ => none

/-- A field of the next state. -/
def view {α : Type} (f : State → α) (o : Host.Outcome State Fault Refusal) : Option α :=
  (after o).map f

/-! ## Ill-formed operands are refused -/

theorem test_se_address_of_25_bits_is_ill_formed : (Instr.se 0x1000000#32).wellFormed cfg = false := by decide

theorem test_pp_address_of_25_bits_is_ill_formed : (Instr.pp 0x1000000#32 [0#8]).wellFormed cfg = false := by decide

theorem test_pp_without_data_is_ill_formed : (Instr.pp 0#32 []).wellFormed cfg = false := by decide

theorem test_pp_over_a_page_is_ill_formed : (Instr.pp 0#32 (List.replicate 257 0#8)).wellFormed cfg = false := by
  decide +kernel

theorem test_pp_of_two_bytes_is_ill_formed_when_byte_programmable :
    (Instr.pp 0#32 [1#8, 2#8]).wellFormed cfgByte = false := by decide

theorem test_well_formed_at_the_bounds :
    (Instr.se 0xFFFFFF#32).wellFormed cfg = true ∧ (Instr.pp 0xFFFFFF#32 [0#8]).wellFormed cfgByte = true ∧
    (Instr.write 0#32 []).wellFormed cfg = true := by decide

/-! ## Words written out from rules R85 to R90 -/

theorem test_decode_rdid : decodeTableWord 8 0b10011111 = some .rdid := by decide

theorem test_decode_wren : decodeTableWord 8 0b00000110 = some .wren := by decide

theorem test_decode_rdsr : decodeTableWord 8 0b00000101 = some .rdsr := by decide

/-- V-41-2: wire D8 02 00 00. -/
theorem test_decode_se : decode cfg .frame [0b11011000#8, 0x02#8, 0x00#8, 0x00#8] = .ok (.se 0x020000#32) := by decide

/-- Every address byte distinct: V-30-7. -/
theorem test_decode_se_byte_order :
    decode cfg .frame [0xD8#8, 0x12#8, 0x34#8, 0x56#8] = .ok (.se 0x123456#32) := by decide

/-- V-41-6: wire 02 00 10 00 11 22. -/
theorem test_decode_pp :
    decode cfg .frame [0b00000010#8, 0x00#8, 0x10#8, 0x00#8, 0x11#8, 0x22#8] = .ok (.pp 0x001000#32 [0x11#8, 0x22#8]) := by
  decide

theorem test_decode_ce : decodeTableWord 8 0b11000111 = some .ce := by decide

/-- V-41-15: wire 01 1C. -/
theorem test_decode_wrsr : decode cfg .frame [0b00000001#8, 0x1C#8] = .ok (.wrsr 0x1C#8) := by decide

theorem test_decode_init : decodeTableWord 8 0b00000000 = some .init := by decide

/-- ERASE -1, 2 (tag 1; the operand bytes are the model's layout, log entry 9). -/
theorem test_decode_erase :
    decode cfg .request [0b00000001#8, 0xFF#8, 0xFF#8, 0xFF#8, 0xFF#8, 0x00#8, 0x00#8, 0x00#8, 0x02#8] =
      .ok (.erase 0xFFFFFFFF#32 2#32) := by decide

/-- WRITE 0x9F0000FE, [7] (tag 2; the operand bytes are the model's layout, log entry 9). -/
theorem test_decode_write :
    decode cfg .request [0b00000010#8, 0x9F#8, 0x00#8, 0x00#8, 0xFE#8, 0x07#8] = .ok (.write 0x9F0000FE#32 [0x07#8]) := by
  decide

/-- V-41-17, V-41-8 and V-41-23: unknown and malformed frames. -/
theorem test_decode_refuses :
    decode cfg .frame [0x03#8] = .error .unknownOpcode ∧
    decode cfg .frame [0x02#8, 0x00#8, 0x10#8, 0x00#8] = .error .malformedFrame ∧
    decode cfg .frame [0x05#8, 0x00#8] = .error .malformedFrame ∧
    decode cfg .frame [] = .error .empty ∧
    decode cfg .request [0x03#8] = .error .unknownRequest ∧
    decode cfg .request [0x01#8, 0x00#8] = .error .malformedRequest := by decide

/-- The first instruction after reset, as the host places it. -/
theorem test_fetch_word_runs_init :
    view (fun t => (t.ACTIVE, t.pc)) (step (State.reset.withFetchWord 8 0x00)) = some (some .init, .initEntry) := by
  decide

/-! ## The seven frames, section 2.2 of 95_test_vectors.md -/

/-- V-41-1. -/
theorem test_wren :
    view (fun t => (t.flash.WEL, t.TRACE)) (exec .wren (bench (chip false false))) =
      some (true, [.csStart, .tx 0x06#8, .go]) := by decide

/-- V-30-10. -/
theorem test_rdid :
    view (fun t => (t.work.ID, t.TRACE.getLast?, t.flash)) (exec .rdid (bench (chip false false))) =
      some (some [0xEF#8, 0x40#8, 0x16#8], some .go, chip false false) := by decide

/-- V-41-19: LEFT 3 becomes 2 and the status byte is 0x01. -/
theorem test_rdsr_busy :
    view (fun t => (t.work.STATUS, t.flash.LEFT)) (exec .rdsr (bench (busyChip (.erase 0 0x10000) (.reads 3)))) =
      some (some 0x01#8, .reads 2) := by decide

/-- V-41-6: the read completes the program cycle. -/
theorem test_rdsr_completes_a_program :
    view (fun t => (t.work.STATUS, t.flash.ARRAY, t.flash.WEL))
      (exec .rdsr (bench (busyChip (.program [(0x1000, 0x11#8), (0x1001, 0x22#8)]) (.reads 0)))) =
      some (some 0x00#8, [(0x1000, 0x11#8), (0x1001, 0x22#8)], false) := by decide

/-- V-41-2, and the example of rule R100. -/
theorem test_se :
    view (fun t => (t.flash.PENDING, t.bus.FRAME)) (exec (.se 0x020000#32) (bench (chip true false))) =
      some (.erase 0x020000 0x10000, [0xD8#8, 0x02#8, 0x00#8, 0x00#8]) := by decide

/-- V-41-3, V-41-4, V-41-5 and V-60-4. -/
theorem test_se_faults :
    view (·.FAULT) (exec (.se 0x020000#32) (bench (chip false false))) = some (some .noWriteEnable) ∧
    view (·.FAULT) (exec (.se 0x001000#32) (bench (chip true false))) = some (some .misaligned) ∧
    view (·.FAULT) (exec (.se 0x400000#32) (bench (chip true false))) = some (some .outOfRange) ∧
    view (·.FAULT) (exec (.se 0x020000#32) (bench (chip false true))) = some (some .noWriteEnable) := by decide

/-- V-41-7: the targets wrap in the page. -/
theorem test_pp_wraps :
    view (fun t => t.flash.PENDING) (exec (.pp 0x0000FE#32 [1#8, 2#8, 3#8, 4#8]) (bench (chip true false))) =
      some (.program [(0xFE, 1#8), (0xFF, 2#8), (0x00, 3#8), (0x01, 4#8)]) := by decide

/-- V-41-8, V-41-10 and V-41-11. -/
theorem test_pp_faults :
    view (·.FAULT) (exec (.pp 0x1000#32 []) (bench (chip true false))) = some (some .malformedFrame) ∧
    view (·.FAULT) (exec (.pp 0x3FFFFF#32 [0xAA#8]) (bench (chip true false))) = some none ∧
    view (·.FAULT) (exec (.pp 0x400000#32 [0xAA#8]) (bench (chip true false))) = some (some .outOfRange) := by decide

/-- V-41-20: the start of the cycle. -/
theorem test_ce :
    view (fun t => (t.flash.PENDING, t.TRACE)) (exec .ce (bench (chip true false))) =
      some (.eraseAll, [.csStart, .tx 0xC7#8, .go]) := by decide

/-- V-41-20: its completion erases every byte. -/
theorem test_ce_completes :
    (complete { bench (busyChip .eraseAll (.reads 0)) with
      flash := { busyChip .eraseAll (.reads 0) with ARRAY := [(0, 1#8), (0x3FFFFF, 2#8)] } }).flash.ARRAY = [] := by
  decide

/-- The example of rule R103, and that WRSR is not subject to the protection. -/
theorem test_wrsr :
    view (fun t => (t.flash.PENDING, t.bus.FRAME)) (exec (.wrsr 0x00#8) (bench (chip true true))) =
      some (.writeSR 0x00#8, [0x01#8, 0x00#8]) := by decide

/-- V-41-14: its completion clears PROT and WEL. -/
theorem test_wrsr_completes :
    (complete { bench (chip true true) with
      flash := { busyChip (.writeSR 0x00#8) (.reads 0) with PROT := true } }).flash = chip false false := by decide

/-! ## The transport, section 2.1 -/

/-- V-30-6 and V-30-7. -/
theorem test_txa :
    (runCall (.txa 0x1000000#32) (sending [0x02#8] .none (bench (chip false false)))).FAULT = some .addrOverflow ∧
    (runCall (.txa 0x123456#32) (sending [0xD8#8] .none (bench (chip false false)))).bus.FRAME =
      [0xD8#8, 0x12#8, 0x34#8, 0x56#8] := by decide

/-- V-30-9: FS_SET(0) ends the RDSR frame. -/
theorem test_fs0_ends_rdsr :
    (runCall (.fs false) (sending [0x05#8] .done (bench (chip false false)))).bus =
      { quietBus with FS := false, FRAME := [0x05#8], FRAME_RD := .done } := by decide

/-- V-41-16 and V-41-22. -/
theorem test_unlatched_and_windowed :
    (runCall .cs (sending [0x06#8] .none (bench (chip false false)))).FAULT = some .unlatchedCommand ∧
    (runCall .go (sending [0x06#8] .opened (bench (chip false false)))).FAULT = some .malformedFrame := by decide

/-! ## The requests, sections 2.3 to 2.7 -/

/-- V-45-6. -/
theorem test_init_twice :
    view (·.FAULT) (step (during .init .initEntry inited)) = some (some .reInit) := by decide

/-- V-45-4: 2^25 > 2^24. -/
theorem test_init_refuses_a_geometry :
    (initStore { bench (chip false false) with
      launch := ⟨.found ⟨0x2000000#32, 512#32⟩, 0x400000, 0x10000⟩ }).FAULT = some .invalidGeometry := by decide

/-- V-44-15 and V-44-16. -/
theorem test_erase_overflows :
    view (fun t => (t.FAULT, t.TRACE)) (step (during (.erase 0xFFFFFFFF#32 0#32) .eraseEntry inited)) =
      some (some .addrOverflow, [.progress 0xFFFFFFFF#32]) ∧
    view (·.FAULT) (step (during (.erase 256#32 256#32) .eraseEntry inited)) = some (some .addrOverflow) := by decide

/-- V-44-12. -/
theorem test_erase_sector_two :
    view (fun t => (t.FAULT, t.pc, t.work.ADDR)) (step (during (.erase 2#32 2#32) .eraseEntry inited)) =
      some (none, .enCs .sector, some 0x020000#32) := by decide

/-- V-44-3: the first chunk of rel 0x0FE, length 4, is 2 bytes. -/
theorem test_write_first_chunk :
    view (fun t => (t.work.CUR, t.work.CHUNK))
      (step (during (.write 0x9F0000FE#32 [1#8, 2#8, 3#8, 4#8]) .writeEntry inited)) =
      some (some 0xFE#32, some 2#32) := by decide

/-- V-44-18: a destination below the base wraps. -/
theorem test_write_below_the_base :
    view (fun t => t.work.ADDR) (step (during (.write 0x9E000000#32 [0#8]) .writeEntry inited)) =
      some (some 0xFF000000#32) := by decide

/-- V-42-5 and V-42-6: only bit 0 is tested. -/
theorem test_busy_flag : busyFlag 0xFE#8 = false ∧ busyFlag 0xFF#8 = true := by decide

/-- The PageTarget table of section 2.2. -/
theorem test_page_targets :
    pageTarget 256 0xFE 1 = 0xFF ∧ pageTarget 256 0xFE 2 = 0 ∧ pageTarget 256 0x012300 255 = 0x0123FF ∧
    pageTarget 256 0x0123FF 1 = 0x012300 := by decide

/-- V-60-1. -/
theorem test_host_read :
    view (·.HOST_BYTE) (hostRead 0x9F0000FE#32 { bench (chip false false) with
      bus := { quietBus with FS := false }, flash := { chip false false with ARRAY := [(0xFE, 1#8)] } }) =
      some (some 0x01#8) := by decide

/-- Rule R84: the wire projection of the example of rule R100. -/
theorem test_wire :
    wireFrames [.csStart, .tx 0xD8#8, .txAddr 0x020000#24, .go] = [[], [0xD8#8, 0x02#8, 0x00#8, 0x00#8]] := by decide

/-! ## Witnesses: for each obligation with hypotheses, states and operands that meet them, for each of its clauses -/

/-- Between requests with FS = 0, as after INIT. -/
def idle : State := { bench (chip false false) with bus := { quietBus with FS := false } }

/-- A program of one statement in front of an idle machine. -/
def loaded (p : Stmt) : State := { idle with PROGRAM := [p] }

/-- The end of a bit-bang session with the RDSR frame still open. -/
def openRdsr (f : Flash) : State := sending [0x05#8] .done (bench f)

/-- The byte-programmable machine between requests. -/
def benchByte (f : Flash) : State := { bench f with cfg := cfgByte }

theorem test_witness_DecodeOfEncode :
    cfg.Valid ∧ cfgByte.Valid ∧ (Instr.se 0xFFFFFF#32).wellFormed cfg = true ∧
    (Instr.pp 0#32 (List.replicate 256 0#8)).wellFormed cfg = true ∧ (Instr.pp 0#32 [0#8]).wellFormed cfgByte = true := by
  decide +kernel

theorem test_witness_EncodeOfDecode :
    decode cfg .frame [0xD8#8, 0xFF#8, 0xFF#8, 0xFF#8] = .ok (.se 0xFFFFFF#32) ∧
    decode cfg .request [0x02#8, 0xFF#8, 0xFF#8, 0xFF#8, 0xFF#8] = .ok (.write 0xFFFFFFFF#32 []) := by decide

theorem test_witness_FrameDecodesExactlyWhenItFits :
    cfg.Valid ∧ decode cfg .frame [0x02#8, 0#8, 0#8, 0#8] = .error .malformedFrame ∧
    decode cfg .frame [0x02#8, 0#8, 0#8, 0#8, 7#8] = .ok (.pp 0#32 [7#8]) ∧
    decode cfgByte .frame [0x02#8, 0#8, 0#8, 0#8, 7#8, 8#8] = .error .malformedFrame ∧
    decode cfg .frame [0xFF#8] = .error .unknownOpcode := by decide

theorem test_witness_StepRunsTheDecodedInstruction :
    Idle (loaded (.request [0#8])) ∧ decodeStmt cfg (.request [0#8]) = .ok .init ∧
    Idle (loaded (.frame [0x06#8])) ∧ decodeStmt cfg (.frame [0x06#8]) = .ok .wren := by decide

theorem test_witness_StepMovesOneAgent :
    idle.FAULT = none ∧ ({ idle with RESET_LINE := some .sequencer } : State).RESET_LINE = some .sequencer ∧
    idle.RESET_LINE = none ∧ (during .init .initEntry idle).ACTIVE ≠ none ∧ idle.PROGRAM = [] ∧
    (loaded (.call .go)).PROGRAM = [.call .go] ∧ (loaded (.read 0#32)).PROGRAM = [.read 0#32] ∧
    decode cfg .frame [] = .error .empty ∧ decode cfg .request [0x03#8] = .error .unknownRequest := by decide

theorem test_witness_FaultIsSticky : (raise .readUnset idle).FAULT = some .readUnset := by decide

theorem test_witness_FsSetWritesFunctionSelect :
    (bench (chip false false)).FAULT = none ∧ (bench (chip false false)).bus.CS = false ∧
    (openRdsr (chip false false)).bus.CS = true ∧ (frameEnd false (openRdsr (chip false false))).FAULT = none ∧
    (frameEnd false (sending [0x06#8] .none (bench (chip false false)))).FAULT ≠ none := by decide

theorem test_witness_CsStartOpensAFrame :
    idle.FAULT = none ∧ idle.bus.FS = false ∧ (bench (chip false false)).bus.FS = true ∧
    (bench (chip false false)).bus.CS = false ∧ (openRdsr (chip false false)).bus.CS = true ∧
    (frameEnd false (openRdsr (chip false false))).FAULT = none ∧
    (frameEnd false (sending [0x06#8] .none (bench (chip false false)))).FAULT ≠ none := by decide

theorem test_witness_RxIdReadsDrawnBytes :
    idle.bus.CS = false ∧ (sending [0x9F#8] .opened (bench (chip false false))).bus.FRAME = [cfg.OP_RDID] ∧
    (sending [0x9F#8] .opened (bench (chip false false))).bus.FRAME_RD = .opened ∧
    (sending [0x9F#8] .opened (bench (chip false false))).flash.BUSY = false ∧
    (sending [0x9F#8] .opened (bench (busyChip .eraseAll .forever))).flash.BUSY = true := by decide

theorem test_witness_GoEndsTheFrameLatched :
    idle.FAULT = none ∧ idle.bus.CS = false ∧
    (frameEnd true (sending [0x06#8] .none (bench (chip false false)))).FAULT = none ∧
    (frameEnd true (sending [0x03#8] .none (bench (chip false false)))).FAULT ≠ none := by decide

theorem test_witness_FrameEndChecksInOrder :
    cfg.Valid ∧ (sending [0xD8#8, 0#8, 0#8, 0#8] .none (bench (chip true false))).bus.FRAME = [0xD8#8, 0#8, 0#8, 0#8] := by
  decide

theorem test_witness_CompletionActsOnTheArray :
    Memory.wf [(0, 1#8), (0x3FFFFF, 2#8)] ∧ (bench (busyChip (.erase 0 1) (.reads 0))).flash.PENDING = .erase 0 1 ∧
    (bench (busyChip .eraseAll (.reads 0))).flash.PENDING = .eraseAll ∧
    (bench (busyChip (.program [(0, 1#8)]) (.reads 0))).flash.PENDING = .program [(0, 1#8)] ∧
    memRead (bench (busyChip (.program [(0, 1#8)]) (.reads 0))).flash.ARRAY 0 = 0xFF#8 ∧
    (bench (busyChip (.writeSR 0#8) (.reads 0))).flash.PENDING = .writeSR cfg.UNLOCK_SR_VALUE := by decide

theorem test_witness_StatusReadCountsDown :
    (busyChip .eraseAll (.reads 0)).BUSY = true ∧ (busyChip .eraseAll (.reads 0)).LEFT = .reads 0 ∧
    (busyChip .eraseAll (.reads 1)).LEFT = .reads (0 + 1) ∧ (busyChip .eraseAll .forever).LEFT = .forever ∧
    (chip false false).BUSY = false := by decide

theorem test_witness_PageTargetsStayInThePage :
    0xFF % 256 + 0 < 256 ∧ ¬ 0xFF % 256 + 1 < 256 ∧ [1#8].length ≤ 1 := by decide

theorem test_witness_WrenSetsTheLatch :
    CanOpen (bench (chip false false)) ∧ CanOpen (openRdsr (chip true false)) ∧ (chip true false).BUSY = false := by decide

theorem test_witness_RdidReadsTheId :
    CanOpen (sending [0x9F#8] .done (bench (chip false false))) ∧ (chip false false).BUSY = false := by decide

theorem test_witness_RdsrReadsTheStatus :
    CanOpen (bench (chip false false)) ∧ CanOpen (openRdsr (busyChip .eraseAll (.reads 0))) ∧
    CanOpen (openRdsr (busyChip .eraseAll (.reads 1))) ∧ CanOpen (openRdsr (busyChip .eraseAll .forever)) := by
  refine ⟨?_, ?_, ?_, ?_⟩ <;> decide

/-- The last sector of the chip. -/
theorem test_witness_SeStartsAnErase :
    CanOpen (bench (chip true false)) ∧ (chip true false).WEL = true ∧ (chip true false).PROT = false ∧
    (0x3F0000#32).toNat < 2 ^ 24 ∧ (0x3F0000#32).toNat % Launch.default.FLASH_SECTOR = 0 ∧
    (0x3F0000#32).toNat + Launch.default.FLASH_SECTOR ≤ Launch.default.FLASH_SIZE := by decide

/-- The last byte of the chip, in both variants. -/
theorem test_witness_PpStartsAProgram :
    CanOpen (bench (chip true false)) ∧ CanOpen (benchByte (chip true false)) ∧ (0x3FFFFF#32).toNat < 2 ^ 24 ∧
    [7#8].length ≤ cfg.PAGE_SIZE ∧ pageTarget cfg.PAGE_SIZE (0x3FFFFF#32).toNat 0 < Launch.default.FLASH_SIZE := by
  decide

theorem test_witness_CeStartsAChipErase :
    CanOpen (bench (chip true false)) ∧ (chip true false).BUSY = false ∧ (chip true false).WEL = true := by decide

theorem test_witness_WrsrStartsAStatusWrite :
    CanOpen (benchByte (chip true true)) ∧ (chip true true).BUSY = false ∧ (chip true true).WEL = true := by decide

theorem test_witness_MutatingFramesNeedLatchAndUnlock :
    CanOpen (bench (chip false false)) ∧ (chip false true).WEL = false ∧ CanOpen (bench (chip true true)) ∧
    (chip true true).WEL = true ∧ (chip true true).PROT = true ∧ (0xFFFFFF#32).toNat < 2 ^ 24 := by decide

theorem test_witness_SeAndPpCheckTheirOperands :
    CanOpen (bench (chip true false)) ∧ 2 ^ 24 ≤ (0x1000000#32).toNat ∧
    (0xFFFFFF#32).toNat % Launch.default.FLASH_SECTOR ≠ 0 ∧
    Launch.default.FLASH_SIZE < (0x400000#32).toNat + Launch.default.FLASH_SECTOR ∧
    cfg.PAGE_SIZE < (List.replicate 257 0#8).length ∧
    Launch.default.FLASH_SIZE ≤ pageTarget cfg.PAGE_SIZE (0x400000#32).toNat 0 := by decide +kernel

/-- Also a PP of no byte, and one whose address does not fit. -/
theorem test_witness_FramesNeedModeAndIdleFlash :
    idle.FAULT = none ∧ idle.bus.FS = false ∧ (Instr.pp 0xFFFFFF#32 []).level = .frame ∧
    CanOpen (bench (busyChip .eraseAll .forever)) ∧ (bench (busyChip .eraseAll .forever)).flash.BUSY = true ∧
    Instr.pp 0xFFFFFF#32 [] ≠ .rdsr ∧ (0xFFFFFF#32).toNat < 2 ^ 24 ∧ 2 ^ 24 ≤ (0x1000000#32).toNat := by decide

theorem test_witness_UndecodableFramesFault :
    CanOpen (bench (chip true false)) ∧ decode cfg .frame [0x03#8] = .error .unknownOpcode ∧
    decode cfg .frame [0x06#8, 0#8] = .error .malformedFrame ∧ decode cfg .frame [] = .error .empty := by decide

theorem test_witness_WireBytesAreTheEncoding :
    ∃ t, exec (.se 0x020000#32) (bench (chip true false)) = .next t ∧ t.FAULT = none :=
  ⟨_, rfl, by decide⟩

theorem test_witness_RequestLifecycle :
    idle.FAULT = none ∧ idle.ACTIVE = none ∧ ([] : List Byte).length < 2 ^ 32 ∧
    (during (.erase 0#32 0#32) .eraseEnd inited).ACTIVE ≠ none ∧
    (during (.erase 0#32 0#32) .eraseEnd inited).pc = .eraseEnd ∧
    ({ during (.write 0#32 []) .writeEnd inited with work := { Work.unset with REM := some 0#32 } } : State).work.REM =
      some 0#32 := by decide

theorem test_witness_RequestOrderIsChecked :
    (∃ s : State, s.FAULT = none ∧ s.RESET_LINE = none ∧ s.ACTIVE ≠ none ∧ s.INIT_DONE = false ∧ s.pc = .eraseEntry) ∧
    (∃ s : State, s.FAULT = none ∧ s.RESET_LINE = none ∧ s.ACTIVE ≠ none ∧ s.INIT_DONE = false ∧ s.pc = .writeEntry) ∧
    (∃ s : State, s.FAULT = none ∧ s.RESET_LINE = none ∧ s.ACTIVE ≠ none ∧ s.INIT_DONE = true ∧ s.pc = .initEntry) :=
  ⟨⟨during (.erase 0#32 0#32) .eraseEntry idle, by decide⟩, ⟨during (.write 0#32 []) .writeEntry idle, by decide⟩,
    ⟨during .init .initEntry inited, by decide⟩⟩

theorem test_witness_InitOfGenericCompletes :
    Idle idle ∧ cfg.Valid ∧ cfg.VARIANT = .generic ∧ idle.INIT_DONE = false ∧ OpenFrameEnds idle ∧
    idle.flash.BUSY = false ∧ idle.launch.PROBE_RESULT = .found ⟨0x400000#32, 64#32⟩ ∧
    validGeometry ⟨0x400000#32, 64#32⟩ = true ∧ validGeometry ⟨0x1000000#32, 1#32⟩ = true := by decide

/-- V-45-2, and the bounds of rule R135. -/
theorem test_witness_InitHandlesTheProbe :
    (∃ s : State, s.FAULT = none ∧ s.RESET_LINE = none ∧ s.ACTIVE ≠ none ∧ s.pc = .initProbe ∧
      s.launch.PROBE_RESULT = .notFound ∧ s.GEOM = none ∧ s.INIT_DONE = false) ∧
    (∃ s : State, s.FAULT = none ∧ s.RESET_LINE = none ∧ s.ACTIVE ≠ none ∧ s.pc = .initProbe ∧
      s.launch.PROBE_RESULT = .found ⟨0x400000#32, 0#32⟩) ∧
    validGeometry ⟨0x400000#32, 0#32⟩ = false ∧ validGeometry ⟨0#32, 1#32⟩ = false ∧
    validGeometry ⟨0x1000001#32, 1#32⟩ = false ∧ validGeometry ⟨0x400000#32, 3#32⟩ = false :=
  ⟨⟨{ during .init .initProbe idle with launch := ⟨.notFound, 1, 1⟩ }, by decide⟩,
    ⟨{ during .init .initProbe idle with launch := ⟨.found ⟨0x400000#32, 0#32⟩, 1, 1⟩ }, by decide⟩, by decide⟩

theorem test_witness_InitOfByteProgrammableUnlocks :
    ∃ s : State, Idle s ∧ s.cfg.Valid ∧ s.cfg.VARIANT = .byteProgrammable ∧ s.cfg.POLL_LIMIT = none ∧
      s.INIT_DONE = false ∧ OpenFrameEnds s ∧ s.flash.BUSY = false ∧ nextDuration s = .reads 0 ∧
      s.launch.PROBE_RESULT = .found ⟨0x400000#32, 64#32⟩ ∧ validGeometry ⟨0x400000#32, 64#32⟩ = true :=
  ⟨benchByte (chip false true), by decide⟩

theorem test_witness_EnableSetsTheLatch :
    ∃ s : State, s.FAULT = none ∧ s.RESET_LINE = none ∧ s.ACTIVE ≠ none ∧ s.cfg.Valid ∧ OpenFrameEnds s ∧
      s.flash.BUSY = false ∧ s.pc = .enFs .unlock :=
  ⟨during .init (.enFs .unlock) (openRdsr (chip false false)), by decide⟩

theorem test_witness_PollReadsExactly :
    ∃ s : State, s.FAULT = none ∧ s.RESET_LINE = none ∧ s.ACTIVE ≠ none ∧ s.cfg.Valid ∧ s.cfg.POLL_LIMIT = none ∧
      s.bus.FS = true ∧ OpenFrameEnds s ∧ s.flash.BUSY = true ∧ s.flash.LEFT = .reads 0 ∧ s.pc = .pollStart .unlock :=
  ⟨during .init (.pollStart .unlock) (bench (busyChip (.writeSR 0#8) (.reads 0))), by decide⟩

theorem test_witness_PollNeverEnds :
    ∃ s : State, s.FAULT = none ∧ s.RESET_LINE = none ∧ s.ACTIVE ≠ none ∧ s.cfg.Valid ∧ s.cfg.POLL_LIMIT = none ∧
      s.bus.FS = true ∧ OpenFrameEnds s ∧ s.flash.BUSY = true ∧ s.flash.LEFT = .forever ∧ s.pc = .pollStart .unlock :=
  ⟨during .init (.pollStart .unlock) (bench (busyChip (.writeSR 0#8) .forever)), by decide⟩

/-- V-42-8 at its bound: the limit is 2 and LEFT is 2. -/
theorem test_witness_PollTimesOut :
    ∃ s : State, s.FAULT = none ∧ s.RESET_LINE = none ∧ s.ACTIVE ≠ none ∧ s.cfg.Valid ∧
      s.cfg.POLL_LIMIT = some (1 + 1) ∧ s.bus.FS = true ∧ OpenFrameEnds s ∧ s.flash.BUSY = true ∧
      s.flash.LEFT = .reads 2 ∧ 1 + 1 ≤ 2 ∧ s.pc = .pollStart .unlock :=
  ⟨{ during .init (.pollStart .unlock) (bench (busyChip (.writeSR 0#8) (.reads 2))) with
    cfg := { cfg with POLL_LIMIT := some 2 } }, by decide⟩

/-- The first index and a later one, on both sides of both bounds of the address check: -1, 0, 255 and 256 with a sector of
0x10000 (256 follows 255 in program P3's manner), and past the last index. -/
theorem test_witness_EraseVisitsASector :
    (∃ s : State, s.FAULT = none ∧ s.RESET_LINE = none ∧ s.GEOM = some ⟨0x400000#32, 64#32⟩ ∧
      s.ACTIVE = some (.erase 0xFFFFFFFF#32 0#32) ∧ s.INIT_DONE = true ∧ s.pc = .eraseEntry) ∧
    (∃ s : State, s.FAULT = none ∧ s.RESET_LINE = none ∧ s.GEOM = some ⟨0x400000#32, 64#32⟩ ∧ s.ACTIVE ≠ none ∧
      s.pc = .pollTest .sector ∧ s.work.SEC_LAST = some 256#32 ∧ s.work.SEC_I = some 255#32 ∧
      (256#32).toInt = (255#32).toInt + 1 ∧ s.work.STATUS = some 0xFE#8 ∧ (0xFE#8).getLsbD 0 = false ∧
      s.work.POLLS = some 0 ∧ s.cfg.Valid ∧ OpenFrameEnds s) ∧
    1 ≤ (64#32).toNat ∧ (0x400000#32).toNat % (64#32).toNat = 0 ∧ (0xFFFFFFFF#32).toInt ≤ (0#32).toInt ∧
    (256#32).toInt ≤ (256#32).toInt ∧ (255#32).toInt < (256#32).toInt ∧
    sectorAddress 0xFFFFFFFF#32 0x10000 < 0 ∧ sectorAddress 0#32 0x10000 = 0 ∧
    sectorAddress 255#32 0x10000 < 2 ^ 24 ∧ 2 ^ 24 ≤ sectorAddress 256#32 0x10000 :=
  ⟨⟨during (.erase 0xFFFFFFFF#32 0#32) .eraseEntry inited, by decide⟩,
    ⟨{ during (.erase 0#32 256#32) (.pollTest .sector) inited with
      work := { Work.unset with
        SEC_I := some 255#32, SEC_LAST := some 256#32, STATUS := some 0xFE#8, POLLS := some 0 } }, by decide⟩, by decide⟩

/-- A later index outside the 24-bit space faults in its visit, with its Progress as the last event. -/
theorem test_erase_later_index_faults :
    view (fun t => (t.FAULT, t.TRACE)) (step { during (.erase 0#32 256#32) (.pollTest .sector) inited with
      work := { Work.unset with
        SEC_I := some 255#32, SEC_LAST := some 256#32, STATUS := some 0xFE#8, POLLS := some 0 } }) =
      some (some .addrOverflow, [.progress 256#32]) := by decide

theorem test_witness_EraseOfAnEmptyRange :
    Idle inited ∧ cfg.Valid ∧ inited.INIT_DONE = true ∧ OpenFrameEnds inited ∧ (2#32).toInt < (3#32).toInt := by decide

/-- The last sector alone (V-44-13); `inited` is well formed by the theorem that follows. -/
theorem test_witness_EraseErasesTheRange :
    Idle inited ∧ inited.cfg.Valid ∧ inited.launch.Valid ∧ inited.cfg.POLL_LIMIT = none ∧ inited.INIT_DONE = true ∧
    inited.GEOM = some ⟨0x400000#32, 64#32⟩ ∧ ProbeAgrees inited.launch ⟨0x400000#32, 64#32⟩ ∧
    OpenFrameEnds inited ∧ inited.flash.BUSY = false ∧ inited.flash.PROT = false ∧ 0 ≤ (63#32).toInt ∧
    (63#32).toInt ≤ (63#32).toInt ∧ (63#32).toInt < (64#32).toNat ∧
    FlashCompletes ((63#32).toInt - (63#32).toInt + 1).toNat inited.draws := by decide

/-- The same where ERASE does not release FS, and in the byte-programmable variant: only the parameters differ. -/
theorem test_witness_EraseErasesTheRange_other_parameters :
    Idle initedKeepsFs ∧ initedKeepsFs.cfg.Valid ∧ initedKeepsFs.cfg.POLL_LIMIT = none ∧
    initedKeepsFs.cfg.ERASE_RELEASES_FS = false ∧ OpenFrameEnds initedKeepsFs ∧
    Idle initedByte ∧ initedByte.cfg.Valid ∧ initedByte.cfg.POLL_LIMIT = none ∧ OpenFrameEnds initedByte := by decide

theorem test_inited_is_well_formed : Wf inited where
  flash := ⟨by decide, by decide, trivial⟩
  geom := by show (1 ≤ (64#32).toNat ∧ (0x400000#32).toNat % (64#32).toNat = 0); decide
  done := by decide
  once := by decide
  line := trivial

theorem test_initedKeepsFs_is_well_formed : Wf initedKeepsFs where
  flash := ⟨by decide, by decide, trivial⟩
  geom := by show (1 ≤ (64#32).toNat ∧ (0x400000#32).toNat % (64#32).toNat = 0); decide
  done := by decide
  once := by decide
  line := trivial

theorem test_initedByte_is_well_formed : Wf initedByte where
  flash := ⟨by decide, by decide, trivial⟩
  geom := by show (1 ≤ (64#32).toNat ∧ (0x400000#32).toNat % (64#32).toNat = 0); decide
  done := by decide
  once := by decide
  line := trivial

theorem test_witness_WriteBegins :
    (∃ s : State, s.FAULT = none ∧ s.RESET_LINE = none ∧ s.cfg.Valid ∧ s.INIT_DONE = true ∧
      s.ACTIVE = some (.write 0#32 []) ∧ OpenFrameEnds s ∧ s.pc = .writeEntry) ∧
    (∃ s : State, s.FAULT = none ∧ s.RESET_LINE = none ∧ s.cfg.Valid ∧ s.cfg.VARIANT = .generic ∧ s.INIT_DONE = true ∧
      s.ACTIVE = some (.write 0#32 [1#8]) ∧ [1#8].length < 2 ^ 32 ∧ OpenFrameEnds s ∧ s.pc = .writeEntry) :=
  ⟨⟨during (.write 0#32 []) .writeEntry inited, by decide⟩, ⟨during (.write 0#32 [1#8]) .writeEntry inited, by decide⟩⟩

/-- The page's last byte and a full page (V-44-2 to V-44-6). -/
theorem test_witness_ChunkStaysInThePage :
    cfg.Valid ∧ (1#32 : U32) ≠ 0#32 ∧ chunkLength cfg 0xFF#32 258#32 = 1 ∧ chunkLength cfg 0x100#32 257#32 = 256 := by decide

/-- The last three bytes of the chip. -/
theorem test_witness_WriteProgramsTheBuffer :
    Idle inited ∧ inited.cfg.Valid ∧ inited.launch.Valid ∧ inited.cfg.POLL_LIMIT = none ∧ inited.INIT_DONE = true ∧
    OpenFrameEnds inited ∧ inited.flash.BUSY = false ∧ inited.flash.PROT = false ∧
    inited.cfg.FLASH_BASE.toNat ≤ (0x9F3FFFFD#32).toNat ∧
    (0x9F3FFFFD#32).toNat - inited.cfg.FLASH_BASE.toNat + [1#8, 2#8, 3#8].length ≤ inited.launch.FLASH_SIZE ∧
    (0x9F3FFFFD#32).toNat + [1#8, 2#8, 3#8].length ≤ 2 ^ 32 ∧
    (∀ j, memRead inited.flash.ARRAY ((0x9F3FFFFD#32).toNat - inited.cfg.FLASH_BASE.toNat + j) = 0xFF#8) ∧
    FlashCompletes [1#8, 2#8, 3#8].length inited.draws := by
  refine ⟨by decide, by decide, by decide, rfl, rfl, by decide, rfl, rfl, by decide, by decide, by decide, fun _ => rfl,
    by decide⟩

/-- The same in the byte-programmable variant. -/
theorem test_witness_WriteProgramsTheBuffer_byte_programmable :
    Idle initedByte ∧ initedByte.cfg.Valid ∧ initedByte.launch.Valid ∧ initedByte.cfg.POLL_LIMIT = none ∧ initedByte.INIT_DONE = true ∧
    OpenFrameEnds initedByte ∧ initedByte.flash.BUSY = false ∧ initedByte.flash.PROT = false ∧
    initedByte.cfg.FLASH_BASE.toNat ≤ (0x9F3FFFFD#32).toNat ∧
    (0x9F3FFFFD#32).toNat - initedByte.cfg.FLASH_BASE.toNat + [1#8, 2#8, 3#8].length ≤ initedByte.launch.FLASH_SIZE ∧
    (0x9F3FFFFD#32).toNat + [1#8, 2#8, 3#8].length ≤ 2 ^ 32 ∧
    (∀ j, memRead initedByte.flash.ARRAY ((0x9F3FFFFD#32).toNat - initedByte.cfg.FLASH_BASE.toNat + j) = 0xFF#8) ∧
    FlashCompletes [1#8, 2#8, 3#8].length initedByte.draws := by
  refine ⟨by decide, by decide, by decide, rfl, rfl, by decide, rfl, rfl, by decide, by decide, by decide, fun _ => rfl,
    by decide⟩

/-- Both ends of the window and a pending target. -/
theorem test_witness_HostReadsTheWindow :
    (bench (chip false false)).bus.FS = true ∧ idle.bus.FS = false ∧ (0x9EFFFFFF#32).toNat < cfg.FLASH_BASE.toNat ∧
    cfg.FLASH_BASE.toNat + idle.launch.FLASH_SIZE ≤ (0x9F400000#32).toNat ∧
    (0x9F3FFFFF#32).toNat = cfg.FLASH_BASE.toNat + 0x3FFFFF ∧ 0x3FFFFF < idle.launch.FLASH_SIZE ∧
    inTarget .eraseAll 0x3FFFFF = true ∧ inTarget .none 0 = false := by decide

theorem test_witness_ResetsFollowTheTable :
    ({ idle with RESET_LINE := some .sequencer } : State).FAULT = none ∧
    ({ idle with RESET_LINE := some (.powerOn []) } : State).RESET_LINE = some (.powerOn []) := by decide

theorem test_witness_InitAfterMidCycleResetFaults :
    ({ bench (busyChip .eraseAll .forever) with RESET_LINE := some .sequencer } : State).FAULT = none ∧
    ({ bench (busyChip .eraseAll .forever) with RESET_LINE := some .sequencer } : State).flash.BUSY = true ∧
    cfg.Valid ∧ cfgByte.Valid := by decide

/-- Also for GeometryIsImmutable: a step from a well-formed state with a geometry. -/
theorem test_witness_EveryStepKeepsWellFormed :
    Wf inited ∧ inited.RESET_LINE = none ∧ inited.GEOM = some ⟨0x400000#32, 64#32⟩ ∧ step inited = .next inited :=
  ⟨test_inited_is_well_formed, rfl, rfl, rfl⟩

theorem test_witness_StartConditions :
    arrayWf Launch.default.FLASH_SIZE [(0x3FFFFF, 0#8)] ∧ cfg.Valid ∧ cfg.POLL_LIMIT = none ∧ Launch.default.Valid ∧
    [Stmt.request [0#8], Stmt.read 0x9F000000#32].all hostStmt = true := by decide

/-- A conforming state between requests with a reset pending. -/
theorem test_idle_conforms : Conforms { idle with RESET_LINE := some .sequencer } where
  cfg := by decide
  unbounded := rfl
  launch := by decide
  host := rfl
  reset := fun _ => rfl
  geom := by decide
  faulted := by intro x h; cases h
  running := fun _ => ⟨rfl, rfl, ⟨rfl, by decide⟩, fun _ => rfl⟩

theorem test_witness_EveryStepConforms :
    ∃ s t : State, Conforms s ∧ s.RESET_LINE = some .sequencer ∧ s.FAULT = none ∧ step s = .next t :=
  ⟨_, _, test_idle_conforms, rfl, rfl, rfl⟩

/-- A conforming state in the middle of a request: the end of INIT's READ_ID. -/
theorem test_sending_conforms :
    Conforms (during .init .initFsOff { bench (chip false false) with work := { Work.unset with ID := some [] } }) where
  cfg := by decide
  unbounded := rfl
  launch := by decide
  host := rfl
  reset := fun h => absurd rfl h
  geom := by decide
  faulted := by intro x h; cases h
  running := fun _ => ⟨rfl, rfl, rfl, rfl, rfl, rfl⟩

/-- An initialised well-formed state for GeometryIsImmutable, and a step of it. -/
theorem test_witness_GeometryIsImmutable :
    ∃ s t : State, Wf s ∧ s.RESET_LINE = none ∧ s.GEOM = some ⟨0x400000#32, 64#32⟩ ∧ step s = .next t :=
  ⟨inited, _, test_inited_is_well_formed, rfl, rfl, rfl⟩

/-- The end of a WRITE in bounded mode, in the byte-programmable variant. -/
theorem test_witness_ProgramErrorIsNeverReturned :
    ∃ s t : State, NoProgramError s ∧ s.pc = .writeEnd ∧ s.cfg.VARIANT = .byteProgrammable ∧
      s.cfg.POLL_LIMIT = some 1 ∧ step s = .next t :=
  ⟨{ during (.write 0#32 []) .writeEnd initedByte with
    cfg := { cfgByte with POLL_LIMIT := some 1 }, work := { Work.unset with REM := some 0#32 } }, _,
    ⟨by decide, by decide, fun _ => rfl⟩, rfl, rfl, rfl, rfl⟩

theorem test_witness_PhaseFollowsItsTable :
    ∃ s t : State, Conforms s ∧ s.FAULT = none ∧ step s = .next t :=
  ⟨_, _, test_sending_conforms, rfl, rfl⟩

/-- For ConfigurationIsConstant and EventsExplainControlWrites: a step of a request that writes FS. -/
theorem test_witness_EventsExplainControlWrites :
    ∃ t, step (during .init .initFsOn idle) = .next t ∧ t.bus.FS ≠ (during .init .initFsOn idle).bus.FS :=
  ⟨_, rfl, by decide⟩

end Sys2Proof.Tests
end

section
/-! PROOFS. Who moves in a step, ENABLE's four calls, and what the events of a step say about the control registers:
spec/00_scope.md rules R8 and R14, spec/10_state.md rules R27 to R29, spec/42_enable_and_poll.md rule R106. -/

namespace Sys2Proof.Machine

/-! ## The fetch between requests -/

/-- Between requests the next statement of the program is fetched, in the state with it taken off. -/
theorem fetch_program {s : State} (h : Idle s) {p : Stmt} {rest : List Stmt} (hp : s.PROGRAM = p :: rest) :
    fetch s = fetchStmt p { s with PROGRAM := rest } := by
  obtain ⟨hf, ha, hr⟩ := h
  simp [fetch, fetchMove, hf, ha, hr, hp]

/-- Between requests, with no statement left, nothing happens. -/
theorem step_program_nil {s : State} (h : Idle s) (hp : s.PROGRAM = []) : step s = .next s := by
  obtain ⟨hf, ha, hr⟩ := h
  simp [step, fetch, fetchMove, hf, ha, hr, hp]

theorem fetchStmt_ok {s : State} {p : Stmt} {i : Instr} (h : decodeStmt s.cfg p = .ok i) :
    fetchStmt p s = .run i s := by
  cases p with
  | frame bytes =>
    replace h : decodeFrame s.cfg bytes = .ok i := h
    simp [fetchStmt, h]
  | request bytes =>
    replace h : decodeRequest bytes = .ok i := h
    simp [fetchStmt, h]
  | call p => cases h
  | read x => cases h

theorem fetchStmt_frame_error {s : State} {bytes : List Byte} {e : DecodeError}
    (h : decode s.cfg .frame bytes = .error e) : fetchStmt (.frame bytes) s = .done (.next (sendRaw bytes s)) := by
  replace h : decodeFrame s.cfg bytes = .error e := h
  simp [fetchStmt, h]

theorem fetchStmt_request_error {s : State} {bytes : List Byte} {e : DecodeError}
    (h : decode s.cfg .request bytes = .error e) :
    fetchStmt (.request bytes) s = .done (.refused .noSuchRequest) := by
  replace h : decodeRequest bytes = .error e := h
  simp [fetchStmt, h]

/-- Between requests, a statement that decodes is run by `exec`. -/
theorem step_program_ok {s : State} (h : Idle s) {p : Stmt} {rest : List Stmt} (hp : s.PROGRAM = p :: rest)
    {i : Instr} (hd : decodeStmt s.cfg p = .ok i) : step s = exec i { s with PROGRAM := rest } := by
  have hfetch := (fetch_program h hp).trans (fetchStmt_ok (s := { s with PROGRAM := rest }) hd)
  simp only [step, hfetch]

/-- Between requests, a statement that is fetched as a finished move is that move. -/
theorem step_program_done {s : State} (h : Idle s) {p : Stmt} {rest : List Stmt} (hp : s.PROGRAM = p :: rest)
    {o : Host.Outcome State Fault Refusal} (hd : fetchStmt p { s with PROGRAM := rest } = .done o) : step s = o := by
  simp only [step, fetch_program h hp, hd]

/-- Settles O5: the fetch takes the statement off the program and hands its instruction to `exec`. -/
theorem stepRunsTheDecodedInstruction : Obligations.StepRunsTheDecodedInstruction :=
  fun _ _ _ _ hidle hp hd => step_program_ok hidle hp hd

/-- Settles O6, one agent's move per clause. -/
theorem stepMovesOneAgent : Obligations.StepMovesOneAgent := by
  intro s hf
  refine ⟨fun e hr => step_reset hf hr, fun hr ha => step_active hf hr ha, fun hr ha hp => ?_,
    fun p rest hr ha hp => ?_, fun x rest hr ha hp => ?_,
    fun bytes rest e hr ha hp hd => ?_, fun bytes rest e hr ha hp hd => ?_⟩
  · exact step_program_nil ⟨hf, ha, hr⟩ hp
  · exact step_program_done ⟨hf, ha, hr⟩ hp rfl
  · exact step_program_done ⟨hf, ha, hr⟩ hp rfl
  · exact step_program_done ⟨hf, ha, hr⟩ hp (fetchStmt_frame_error (s := { s with PROGRAM := rest }) hd)
  · exact step_program_done ⟨hf, ha, hr⟩ hp (fetchStmt_request_error (s := { s with PROGRAM := rest }) hd)

/-! ## ENABLE, rule R106 -/

/-- A run of a request goes on from the state its microprogram's step leads to. -/
theorem run_active {s t : State} {k : Nat} {o : Host.Outcome State Fault Refusal} (hf : s.FAULT = none)
    (hr : s.RESET_LINE = none) (ha : s.ACTIVE ≠ none) (hstep : microStep s = t)
    (hrun : Sys2Proof.core.run k t = o) : Sys2Proof.core.run (k + 1) s = o := by
  have hnext : Sys2Proof.core.step s = .next t := hstep ▸ step_active hf hr ha
  simp only [Host.Core.run, hnext]
  exact hrun

/-- CS_START of ENABLE. -/
theorem enableCs_ok {s : State} {o : Operation} (h : CanOpen s) :
    enableCs o s = { s with
      pc := .enTx o
      bus := { s.bus with CS := true, FRAME := [], FRAME_RD := .none }
      TRACE := s.TRACE ++ [.csStart] } := by
  unfold enableCs
  rw [csStart_ok h, andThen_ok (by exact h.1)]
  rfl

/-- TX(OP_WREN) of ENABLE. -/
theorem enableTx_ok {s : State} {o : Operation} (hf : s.FAULT = none) (hc : s.bus.CS = true)
    (hr : s.bus.FRAME_RD = .none) :
    enableTx o s = { s with
      pc := .enGo o
      bus := { s.bus with FRAME := s.bus.FRAME ++ [s.cfg.OP_WREN] }
      TRACE := s.TRACE ++ [.tx s.cfg.OP_WREN] } := by
  unfold enableTx
  rw [tx_ok hc hr, andThen_ok (by exact hf)]
  rfl

/-- GO of ENABLE: the latch is set, and PHASE becomes ENABLED in the same step. -/
theorem enableGo_ok {s : State} {o : Operation} (hn : s.FAULT = none) (hv : s.cfg.Valid) (hc : s.bus.CS = true)
    (hf : s.bus.FRAME = [s.cfg.OP_WREN]) (hr : s.bus.FRAME_RD = .none) (hb : s.flash.BUSY = false) :
    enableGo o s = { s with
      pc := .frCs o
      PHASE := .enabled
      flash := { s.flash with WEL := true }
      bus := { s.bus with CS := false }
      TRACE := s.TRACE ++ [.go] } := by
  unfold enableGo
  rw [go_wren hn hv hc hf hr hb, andThen_ok (by exact hn)]
  rfl

/-- Settles O38: one step per call of ENABLE, FS_SET(1), CS_START, TX(OP_WREN) and GO. -/
theorem enableSetsTheLatch : Obligations.EnableSetsTheLatch := by
  intro s o hf hr ha hv ho hb hpc
  have hfs : microStep s = enableFs o s := by simp only [microStep, hpc]
  refine run_active hf hr ha (hfs.trans (enableFs_ok hf o)) ?_
  refine run_active hf hr ha (enableCs_ok ⟨hf, hv, rfl, ho⟩) ?_
  refine run_active hf hr ha (enableTx_ok hf rfl rfl) ?_
  refine run_active hf hr ha (enableGo_ok hf hv rfl rfl rfl hb) ?_
  simp [Host.Core.run]

/-! ## The events of a part of a step -/

/-- `t` follows `s` with `events` appended to TRACE: a changed FS or CLKDIV has its event among them, SPI_WRITE is as
before, and no fault is cleared. -/
structure Logs (events : List Event) (s t : State) : Prop where
  trace : t.TRACE = s.TRACE ++ events
  fs : t.bus.FS ≠ s.bus.FS → .fsSet t.bus.FS ∈ events
  clkdiv : t.bus.CLKDIV ≠ s.bus.CLKDIV → .clkSet t.bus.CLKDIV ∈ events
  spiWrite : t.bus.SPI_WRITE = s.bus.SPI_WRITE
  clean : t.FAULT = none → s.FAULT = none

/-- The number of transport calls among events. -/
def callCount (events : List Event) : Nat := (events.filter isCall).length

theorem callCount_append (es fs : List Event) : callCount (es ++ fs) = callCount es + callCount fs := by
  simp [callCount]

theorem callCount_singleton (e : Event) : callCount [e] = (isCall e).toNat := by
  cases h : isCall e <;> simp [callCount, h]

/-- A part of a step with logged events that makes `n` transport calls, or fewer where it ends in a fault. -/
def Calls (n : Nat) (s t : State) : Prop :=
  ∃ events, Logs events s t ∧ callCount events ≤ n ∧ (t.FAULT = none → callCount events = n)

theorem Logs.append {es fs : List Event} {s t u : State} (h : Logs es s t) (g : Logs fs t u) :
    Logs (es ++ fs) s u where
  trace := by rw [g.trace, h.trace, List.append_assoc]
  fs hne := by
    by_cases hu : u.bus.FS = t.bus.FS
    · exact List.mem_append_left _ (hu ▸ h.fs (hu ▸ hne))
    · exact List.mem_append_right _ (g.fs hu)
  clkdiv hne := by
    by_cases hu : u.bus.CLKDIV = t.bus.CLKDIV
    · exact List.mem_append_left _ (hu ▸ h.clkdiv (hu ▸ hne))
    · exact List.mem_append_right _ (g.clkdiv hu)
  spiWrite := g.spiWrite.trans h.spiWrite
  clean := h.clean ∘ g.clean

theorem Calls.trans {m n : Nat} {s t u : State} (h : Calls m s t) (g : Calls n t u) : Calls (m + n) s u := by
  obtain ⟨es, hl, hle, heq⟩ := h
  obtain ⟨fs, gl, gle, geq⟩ := g
  refine ⟨es ++ fs, hl.append gl, ?_, fun hu => ?_⟩ <;> rw [callCount_append]
  · exact Nat.add_le_add hle gle
  · rw [heq (gl.clean hu), geq hu]

/-- What `Logs` reads of a state. -/
def logged (s : State) : Option Fault × List Event × Bool × U32 × U32 :=
  (s.FAULT, s.TRACE, s.bus.FS, s.bus.CLKDIV, s.bus.SPI_WRITE)

/-- An update that leaves the fault, the trace and the control registers alone. -/
theorem Calls.silent {s t : State} (h : logged t = logged s) : Calls 0 s t := by
  simp only [logged, Prod.mk.injEq] at h
  obtain ⟨hfault, htrace, hfs, hclk, hwrite⟩ := h
  have hl : Logs [] s t :=
    ⟨by simp [htrace], fun hne => absurd hfs hne, fun hne => absurd hclk hne, hwrite, fun hn => hfault ▸ hn⟩
  exact ⟨[], hl, Nat.le_refl 0, fun _ => rfl⟩

theorem Calls.refl (s : State) : Calls 0 s s := .silent rfl

/-- A part of a step after a silent update. -/
theorem Calls.after {n : Nat} {s t u : State} (g : Calls n t u) (h : logged t = logged s) : Calls n s u :=
  Nat.zero_add n ▸ (Calls.silent h).trans g

/-- A silent update after a part of a step. -/
theorem Calls.before {n : Nat} {s t u : State} (g : Calls n s t) (h : logged u = logged t) : Calls n s u :=
  g.trans (.silent h)

/-- A part that faults at once makes no call, whatever number it would have made. -/
theorem Calls.faulted (n : Nat) (x : Fault) (s : State) : Calls n s (raise x s) :=
  ⟨[], ⟨by simp, fun h => absurd rfl h, fun h => absurd rfl h, rfl, nofun⟩, Nat.zero_le n, nofun⟩

theorem Calls.event (e : Event) (s : State) : Calls (isCall e).toNat s (emit e s) :=
  ⟨[e], ⟨rfl, fun h => absurd rfl h, fun h => absurd rfl h, rfl, id⟩, (callCount_singleton e).le,
    fun _ => callCount_singleton e⟩

/-- The event of a transport call that touches no control register. -/
theorem Calls.callEvent {e : Event} {s t : State} (hc : isCall e = true) (h : logged t = logged s) :
    Calls 1 s (emit e t) := by
  simpa [hc] using (Calls.event e t).after h

/-- An event that is no transport call's. -/
theorem Calls.noteEvent (e : Event) (s : State) (hc : isCall e = false) : Calls 0 s (emit e s) := by
  simpa [hc] using Calls.event e s

theorem Calls.andThen {m n : Nat} {s t : State} {f : State → State} (h : Calls m s t) (g : ∀ u, Calls n u (f u)) :
    Calls (m + n) s (t.andThen f) := by
  rcases andThen_cases t f with ⟨_, e⟩ | ⟨x, hx, e⟩ <;> rw [e]
  · exact h.trans (g t)
  · obtain ⟨events, hl, hle, _⟩ := h
    exact ⟨events, hl, Nat.le_add_right_of_le hle, fun hn => by simp [hx] at hn⟩

theorem Calls.need {α : Type} {n : Nat} {s : State} {k : α → State} (r : Option α) (h : ∀ v, Calls n s (k v)) :
    Calls n s (need r s k) := by
  rcases need_cases r s k with ⟨v, _, e⟩ | ⟨_, e⟩ <;> rw [e]
  · exact h v
  · exact .faulted n _ s

/-! ## One call for each primitive, rules R73 to R81 -/

theorem endOpenFrame_calls (s : State) : Calls 0 s (endOpenFrame s) := by
  rcases endOpenFrame_cases s with ⟨x, e⟩ | e <;> rw [e]
  · exact .faulted 0 x s
  · exact .refl s

theorem frameEnd_calls (latched : Bool) (s : State) : Calls 0 s (frameEnd latched s) := by
  rcases frameEnd_cases latched s with ⟨x, e⟩ | e | e | ⟨p, _, _, _, e⟩ <;> rw [e]
  · exact .faulted 0 x s
  · exact .refl s
  · exact .silent rfl
  · exact .silent rfl

/-- The write of SPI_FS with its event: the one place where FS changes. -/
theorem writeFs_calls (v : Bool) (s : State) :
    Calls 1 s (emit (.fsSet v) { s with bus := regWr .spiFs (BitVec.setWidth 32 (BitVec.ofBool v)) s.bus }) := by
  rw [regWr_spiFs]
  exact ⟨[.fsSet v], ⟨rfl, fun _ => List.mem_singleton.mpr rfl, fun h => absurd rfl h, rfl, id⟩, Nat.le_refl 1,
    fun _ => rfl⟩

theorem fsSet_calls (v : Bool) (s : State) : Calls 1 s (fsSet v s) := by
  refine Calls.andThen (m := 0) (n := 1) ?_ (writeFs_calls v)
  split
  · exact .refl s
  · exact Calls.andThen (m := 0) (n := 0) (endOpenFrame_calls s) fun _ => .silent rfl

/-- The one place where CLKDIV changes. -/
theorem clkSet_calls (d : U32) (s : State) : Calls 1 s (clkSet d s) :=
  ⟨[.clkSet d], ⟨rfl, fun h => absurd rfl h, fun _ => List.mem_singleton.mpr rfl, rfl, id⟩, Nat.le_refl 1,
    fun _ => rfl⟩

theorem csStart_calls (s : State) : Calls 1 s (csStart s) := by
  unfold csStart
  split
  · exact .faulted 1 _ s
  · exact Calls.andThen (m := 0) (n := 1) (endOpenFrame_calls s) fun _ => .callEvent rfl rfl

theorem tx_calls (b : Byte) (s : State) : Calls 1 s (tx b s) := by
  unfold tx
  split
  · exact .callEvent rfl rfl
  · exact .faulted 1 _ s

theorem txAddr_calls (a : U32) (s : State) : Calls 1 s (txAddr a s) := by
  unfold txAddr
  split
  · exact .faulted 1 _ s
  split
  · exact .callEvent rfl rfl
  · exact .faulted 1 _ s

theorem delay_calls (s : State) : Calls 1 s (delay s) := by
  unfold delay
  split
  · exact .callEvent rfl rfl
  · exact .faulted 1 _ s

theorem rx_calls {k : Byte → State → State} (hk : ∀ v u, Calls 0 u (k v u)) (s : State) : Calls 1 s (rx k s) := by
  rcases rx_cases k s with e | e <;> rw [e]
  · exact .faulted 1 _ s
  · obtain ⟨hbus, hfault, htrace⟩ := statusRead_frame s
    have hread : logged (fetched [(statusRead s).1] (statusRead s).2) = logged s := by
      simp [logged, hbus, hfault, htrace]
    exact (Calls.callEvent rfl hread).trans (hk _ _)

theorem rxId_calls {k : List Byte → State → State} (hk : ∀ v u, Calls 0 u (k v u)) (s : State) :
    Calls 1 s (rxId k s) := by
  rcases rxId_cases k s with ⟨x, e⟩ | e <;> rw [e]
  · exact .faulted 1 x s
  · have hread : logged (fetched (drawBytes s.cfg.RDID_LEN s).1 (drawBytes s.cfg.RDID_LEN s).2) = logged s := by
      rw [drawBytes_eq]
      rfl
    exact (Calls.callEvent rfl hread).trans (hk _ _)

theorem go_calls (s : State) : Calls 1 s (go s) := by
  unfold go
  split
  · exact Calls.andThen (m := 0) (n := 1) (frameEnd_calls true s) fun _ => .callEvent rfl rfl
  · exact .faulted 1 _ s

theorem runCall_calls (p : Call) (s : State) : Calls 1 s (runCall p s) := by
  cases p with
  | fs v => exact fsSet_calls v s
  | clk d => exact clkSet_calls d s
  | cs => exact csStart_calls s
  | tx b => exact tx_calls b s
  | txa a => exact txAddr_calls a s
  | delay => exact delay_calls s
  | rx => exact rx_calls (fun _ => .refl) s
  | rxid => exact rxId_calls (fun _ => .refl) s
  | go => exact go_calls s

/-! ## The steps of a request -/

/-- A step of a request makes one transport call (fewer where it faults), or ends the request without one. -/
def OneCallOrEnd (s t : State) : Prop :=
  Calls 1 s t ∨ Calls 0 s t ∧ t.ACTIVE = none

theorem OneCallOrEnd.ended (c : Result) (s : State) : OneCallOrEnd s (endWith c s) :=
  Or.inr ⟨(Calls.noteEvent (.res c) s rfl).before rfl, rfl⟩

theorem OneCallOrEnd.after {s t u : State} (g : OneCallOrEnd t u) (h : logged t = logged s) : OneCallOrEnd s u :=
  g.imp (·.after h) fun ⟨gc, ga⟩ => ⟨gc.after h, ga⟩

theorem OneCallOrEnd.need {α : Type} {s : State} {k : α → State} (r : Option α) (h : ∀ v, OneCallOrEnd s (k v)) :
    OneCallOrEnd s (need r s k) := by
  rcases need_cases r s k with ⟨v, _, e⟩ | ⟨_, e⟩ <;> rw [e]
  · exact h v
  · exact Or.inl (.faulted 1 _ s)

/-- A part and then a jump: the shape of most of the microprogram's steps. -/
theorem Calls.andGoTo {n : Nat} {s t : State} (h : Calls n s t) (l : Label) : Calls n s (t.andThen (goTo l)) :=
  Calls.andThen (n := 0) h fun _ => .silent rfl

theorem enableFs_calls (o : Operation) (s : State) : Calls 1 s (enableFs o s) :=
  (fsSet_calls true s).andGoTo _

theorem enableGo_calls (o : Operation) (s : State) : Calls 1 s (enableGo o s) :=
  Calls.andThen (n := 0) (go_calls s) fun _ => .silent rfl

theorem afterByte_calls (o : Operation) (k : Nat) (s : State) : Calls 0 s (afterByte o k s) := by
  refine Calls.need _ fun ds => ?_
  split <;> exact .silent rfl

theorem frameOp_calls (o : Operation) (s : State) : Calls 1 s (frameOp o s) := by
  refine Calls.andThen (n := 0) (tx_calls _ s) fun u => ?_
  split
  · exact afterByte_calls o 0 u
  · exact .silent rfl

theorem frameAddress_calls (o : Operation) (s : State) : Calls 1 s (frameAddress o s) :=
  .need _ fun a => (txAddr_calls a s).andThen (afterByte_calls o 0)

theorem frameData_calls (o : Operation) (k : Nat) (s : State) : Calls 1 s (frameData o k s) :=
  .need _ fun _ => .need _ fun b => (tx_calls b s).andThen (afterByte_calls o (k + 1))

theorem frameGo_calls (o : Operation) (s : State) : Calls 1 s (frameGo o s) :=
  Calls.andThen (n := 0) (go_calls s) fun _ => .silent rfl

theorem pollCs_calls (o : Operation) (s : State) : Calls 1 s (pollCs o s) :=
  (csStart_calls s).andGoTo _

theorem pollBegin_calls (o : Operation) (s : State) : Calls 1 s (pollBegin o s) :=
  (pollCs_calls o _).after rfl

theorem pollRx_calls (o : Operation) (s : State) : Calls 1 s (pollRx o s) :=
  rx_calls (k := fun v t => goTo (.pollTest o) (setStatus v t)) (fun _ _ => .silent rfl) s

theorem readIdRx_calls (s : State) : Calls 1 s (readIdRx s) :=
  rxId_calls (k := fun ids t => goTo .idGo (setId ids t)) (fun _ _ => .silent rfl) s

theorem initBegin_calls (s : State) : Calls 1 s (initBegin s) := by
  unfold initBegin
  split
  · exact .faulted 1 _ s
  split <;> exact (clkSet_calls _ s).andGoTo _

theorem initDisableFs_calls (s : State) : Calls 1 s (initDisableFs s) :=
  .need _ fun ids => ((Calls.noteEvent (.logId ids) s rfl).trans (fsSet_calls false _)).andGoTo _

theorem initStore_oneCallOrEnd (s : State) : OneCallOrEnd s (initStore s) := by
  unfold initStore
  split
  · exact .ended _ s
  split
  · exact Or.inl (.faulted 1 _ s)
  · exact (OneCallOrEnd.ended _ _).after rfl

theorem eraseDone_oneCallOrEnd (s : State) : OneCallOrEnd s (eraseDone s) := by
  unfold eraseDone
  split
  · exact Or.inl ((fsSet_calls false s).andGoTo _)
  · exact .ended _ s

theorem eraseSector_calls (i : I32) (s : State) : Calls 1 s (eraseSector i s) := by
  refine Calls.need _ fun size => ?_
  split
  · exact .faulted 1 _ s
  · exact (enableFs_calls .sector _).after rfl

theorem eraseLoop_oneCallOrEnd (s : State) : OneCallOrEnd s (eraseLoop s) := by
  refine .need _ fun i => .need _ fun last => ?_
  split
  · exact eraseDone_oneCallOrEnd s
  · exact Or.inl ((Calls.noteEvent (.progress i) s rfl).trans (eraseSector_calls i _))

theorem eraseBegin_oneCallOrEnd (s : State) : OneCallOrEnd s (eraseBegin s) := by
  unfold eraseBegin
  split
  · exact Or.inl (.faulted 1 _ s)
  · exact .need _ fun _ => (eraseLoop_oneCallOrEnd _).after rfl

theorem eraseNext_oneCallOrEnd (s : State) : OneCallOrEnd s (eraseNext s) :=
  .need _ fun _ => (eraseLoop_oneCallOrEnd _).after rfl

theorem writeProgram_calls (o : Operation) (cur : U32) (s : State) : Calls 1 s (writeProgram o cur s) :=
  (enableFs_calls o _).after rfl

theorem writeLoop_calls (s : State) : Calls 1 s (writeLoop s) := by
  refine Calls.need _ fun rem => ?_
  split
  · exact (fsSet_calls false s).andGoTo _
  refine Calls.need _ fun cur => ?_
  split
  · exact (writeProgram_calls .page cur _).after rfl
  · exact writeProgram_calls .byte cur s

theorem writeBegin_calls (s : State) : Calls 1 s (writeBegin s) := by
  unfold writeBegin
  split
  · exact .faulted 1 _ s
  · exact .need _ fun _ => (writeLoop_calls _).after rfl

theorem writeNext_calls (s : State) : Calls 1 s (writeNext s) :=
  .need _ fun _ => .need _ fun _ => .need _ fun _ => .need _ fun _ => (writeLoop_calls _).after rfl

theorem writeFinish_oneCallOrEnd (s : State) : OneCallOrEnd s (writeFinish s) := by
  refine .need _ fun rem => ?_
  split <;> exact .ended _ s

theorem pollReturn_oneCallOrEnd (o : Operation) (s : State) : OneCallOrEnd s (pollReturn o s) := by
  cases o with
  | unlock => exact Or.inl ((fsSet_calls true s).andGoTo _)
  | sector => exact eraseNext_oneCallOrEnd s
  | page => exact Or.inl (writeNext_calls s)
  | byte => exact Or.inl (writeNext_calls s)

theorem pollTest_oneCallOrEnd (o : Operation) (s : State) : OneCallOrEnd s (pollTest o s) := by
  refine .need _ fun v => .need _ fun n => ?_
  dsimp only
  split
  · exact (pollReturn_oneCallOrEnd o _).after rfl
  split
  · exact (OneCallOrEnd.ended _ _).after rfl
  · exact Or.inl ((pollCs_calls o _).after rfl)

/-- Every step of the microprogram but the Probe's makes one transport call or ends the request, rule R8. -/
theorem microStep_oneCallOrEnd {s : State} (hh : s.pc ≠ .haltIdle) (hp : s.pc ≠ .initProbe) :
    OneCallOrEnd s (microStep s) := by
  unfold microStep
  cases hpc : s.pc with
  | haltIdle => exact absurd hpc hh
  | initProbe => exact absurd hpc hp
  | initEntry => exact Or.inl (initBegin_calls s)
  | enFs o => exact Or.inl (enableFs_calls o s)
  | enCs o => exact Or.inl ((csStart_calls s).andGoTo _)
  | enTx o => exact Or.inl ((tx_calls _ s).andGoTo _)
  | enGo o => exact Or.inl (enableGo_calls o s)
  | frCs o => exact Or.inl ((csStart_calls s).andGoTo _)
  | frOp o => exact Or.inl (frameOp_calls o s)
  | frAddr o => exact Or.inl (frameAddress_calls o s)
  | frData o k => exact Or.inl (frameData_calls o k s)
  | frGo o => exact Or.inl (frameGo_calls o s)
  | pollStart o => exact Or.inl (pollBegin_calls o s)
  | pollTx o => exact Or.inl ((tx_calls _ s).andGoTo _)
  | pollDelay o => exact Or.inl ((delay_calls s).andGoTo _)
  | pollRx o => exact Or.inl (pollRx_calls o s)
  | pollTest o => exact pollTest_oneCallOrEnd o s
  | initFsOn => exact Or.inl ((fsSet_calls true s).andGoTo _)
  | idCs => exact Or.inl ((csStart_calls s).andGoTo _)
  | idTx => exact Or.inl ((tx_calls _ s).andGoTo _)
  | idDelay => exact Or.inl ((delay_calls s).andGoTo _)
  | idRx => exact Or.inl (readIdRx_calls s)
  | idGo => exact Or.inl ((go_calls s).andGoTo _)
  | initFsOff => exact Or.inl (initDisableFs_calls s)
  | initStore => exact initStore_oneCallOrEnd s
  | eraseEntry => exact eraseBegin_oneCallOrEnd s
  | eraseEnd => exact .ended _ s
  | writeEntry => exact Or.inl (writeBegin_calls s)
  | writeEnd => exact writeFinish_oneCallOrEnd s

/-- At HALT_IDLE there is no step, and the Probe's step logs its answer without a call. -/
theorem microStep_calls_zero {s : State} (h : s.pc = .haltIdle ∨ s.pc = .initProbe) : Calls 0 s (microStep s) := by
  unfold microStep
  rcases h with h | h <;> rw [h]
  · exact .refl s
  · exact (Calls.noteEvent (.probe _) s rfl).before rfl

/-! ## The moves between requests -/

theorem txAll_calls (bs : List Byte) (s : State) : Calls bs.length s (txAll bs s) := by
  induction bs generalizing s with
  | nil => exact .refl s
  | cons b bs ih =>
    rw [List.length_cons, Nat.add_comm]
    exact (tx_calls b s).andThen ih

theorem issue_calls (op : Byte) (s : State) : Calls 2 s (issue op s) :=
  (csStart_calls s).andThen (tx_calls op)

theorem issueAddr_calls (op : Byte) (a : U32) (s : State) : Calls 3 s (issueAddr op a s) :=
  (issue_calls op s).andThen (txAddr_calls a)

theorem sendRaw_calls (bs : List Byte) (s : State) : Calls (1 + bs.length + 1) s (sendRaw bs s) :=
  ((csStart_calls s).andThen (txAll_calls bs)).andThen go_calls

theorem runs_calls {n : Nat} {f : State → State} {s t : State} (hf : ∀ u, Calls n u (f u))
    (h : runs s f = .next t) : Calls n s t := by
  cases hfault : s.FAULT with
  | none =>
    rw [runs_ok hfault] at h
    cases h
    exact hf s
  | some x => simp [runs_fault hfault] at h

theorem admitRequest_calls {r : Request} {s t : State} (h : admitRequest r s = .next t) : Calls 0 s t := by
  rcases admit_cases r s with ⟨_, _, _, e⟩ | ⟨x, _, e⟩ | e <;> rw [e] at h <;> cases h
  exact ((Calls.noteEvent (.req r) _ rfl).after (s := s) rfl).before rfl

/-- The calls of an instruction are those of its sequence, rules R97 to R103; a request's Start makes none. -/
theorem exec_calls {i : Instr} {s t : State} (h : exec i s = .next t) : ∃ n, Calls n s t := by
  cases i with
  | rdid =>
    exact ⟨_, runs_calls (fun u => (((issue_calls _ u).andThen delay_calls).andThen
      (rxId_calls (k := setId) fun _ _ => .silent rfl)).andThen go_calls) h⟩
  | wren => exact ⟨_, runs_calls (fun u => (issue_calls _ u).andThen go_calls) h⟩
  | rdsr =>
    exact ⟨_, runs_calls (fun u => ((issue_calls _ u).andThen delay_calls).andThen
      (rx_calls (k := setStatus) fun _ _ => .silent rfl)) h⟩
  | se a => exact ⟨_, runs_calls (fun u => (issueAddr_calls _ a u).andThen go_calls) h⟩
  | pp a data =>
    exact ⟨_, runs_calls (fun u => ((issueAddr_calls _ a u).andThen (txAll_calls data)).andThen go_calls) h⟩
  | ce => exact ⟨_, runs_calls (fun u => (issue_calls _ u).andThen go_calls) h⟩
  | wrsr v => exact ⟨_, runs_calls (fun u => ((issue_calls _ u).andThen (tx_calls v)).andThen go_calls) h⟩
  | init => exact ⟨0, admitRequest_calls h⟩
  | erase first last => exact ⟨0, admitRequest_calls h⟩
  | write dest data => exact ⟨0, admitRequest_calls h⟩

theorem hostRead_calls {x : U32} {s t : State} (h : hostRead x s = .next t) : Calls 0 s t := by
  unfold hostRead at h
  split at h
  · cases h
    exact .faulted 0 _ s
  split at h
  · cases h
  split at h <;> cases h <;> exact .silent rfl

/-- A statement's move: an instruction, a frame sent as it is, a call or a window read. -/
theorem step_program_calls {s t : State} (h : Idle s) {p : Stmt} {rest : List Stmt} (hp : s.PROGRAM = p :: rest)
    (hstep : step s = .next t) : ∃ n, Calls n { s with PROGRAM := rest } t := by
  cases hd : decodeStmt s.cfg p with
  | ok i =>
    rw [step_program_ok h hp hd] at hstep
    exact exec_calls hstep
  | error e =>
    cases p with
    | frame bytes =>
      rw [step_program_done h hp (fetchStmt_frame_error (s := { s with PROGRAM := rest }) hd)] at hstep
      cases hstep
      exact ⟨_, sendRaw_calls bytes _⟩
    | request bytes =>
      rw [step_program_done h hp (fetchStmt_request_error (s := { s with PROGRAM := rest }) hd)] at hstep
      cases hstep
    | call q =>
      rw [step_program_done h hp rfl] at hstep
      cases hstep
      exact ⟨1, runCall_calls q _⟩
    | read x =>
      rw [step_program_done h hp rfl] at hstep
      exact ⟨0, hostRead_calls hstep⟩

/-- Between requests a step's calls are those of the next statement, if there is one. -/
theorem step_idle_calls {s t : State} (h : Idle s) (hstep : step s = .next t) : ∃ n, Calls n s t := by
  cases hp : s.PROGRAM with
  | nil =>
    rw [step_program_nil h hp] at hstep
    cases hstep
    exact ⟨0, .refl s⟩
  | cons p rest =>
    obtain ⟨n, hn⟩ := step_program_calls h hp hstep
    exact ⟨n, hn.after rfl⟩

/-- A machine that takes a step is not faulted, rule R141. -/
theorem fault_none_of_step {s t : State} (h : step s = .next t) : s.FAULT = none := by
  cases hf : s.FAULT with
  | none => rfl
  | some x => simp [step, fetch, hf] at h

/-- The number of calls in a step of a request, rule R8. -/
theorem microStep_callCount (s : State) : ∃ events, Logs events s (microStep s) ∧ callCount events ≤ 1 ∧
    ((microStep s).FAULT = none → (microStep s).ACTIVE ≠ none → s.pc ≠ .haltIdle → s.pc ≠ .initProbe →
      callCount events = 1) := by
  by_cases hpc : s.pc = .haltIdle ∨ s.pc = .initProbe
  · obtain ⟨events, hl, hle, _⟩ := microStep_calls_zero hpc
    exact ⟨events, hl, Nat.le_succ_of_le hle, fun _ _ hh hp => absurd hpc (not_or.mpr ⟨hh, hp⟩)⟩
  · obtain ⟨hh, hp⟩ := not_or.mp hpc
    rcases microStep_oneCallOrEnd hh hp with ⟨events, hl, hle, heq⟩ | ⟨⟨events, hl, hle, _⟩, hend⟩
    · exact ⟨events, hl, hle, fun hf _ _ _ => heq hf⟩
    · exact ⟨events, hl, Nat.le_succ_of_le hle, fun _ hact _ _ => absurd hend hact⟩

/-- Settles O60: each part of a step logs its events and explains the control registers it writes (`Logs`), and its
transport calls are counted (`Calls`). -/
theorem eventsExplainControlWrites : Obligations.EventsExplainControlWrites := by
  intro s t hr hstep
  have hf := fault_none_of_step hstep
  by_cases ha : s.ACTIVE = none
  · obtain ⟨n, events, hl, _⟩ := step_idle_calls ⟨hf, ha, hr⟩ hstep
    exact ⟨events, hl.trace, fun hne => absurd ha hne, hl.fs, hl.clkdiv, hl.spiWrite⟩
  · rw [step_active hf hr ha] at hstep
    cases hstep
    obtain ⟨events, hl, hle, heq⟩ := microStep_callCount s
    exact ⟨events, hl.trace, fun _ => ⟨hle, heq⟩, hl.fs, hl.clkdiv, hl.spiWrite⟩

end Sys2Proof.Machine
end

section
/-! PROOFS. What every step keeps (parameters, launch inputs, well-formed states, the geometry), the order checks of
requests, and resets: spec/10_state.md rules R17 to R20, R33, R37, R39, R42 and R43, spec/60_exceptions.md rules R136,
R141 and R142, spec/70_reset_and_hazards.md rules R154 to R156. -/

namespace Sys2Proof.Machine

/-! ## What the parts of a step keep -/

/-- A request is in progress, between INIT's entry and its store of the geometry. -/
abbrev InsideInit (s : State) : Prop :=
  s.ACTIVE ≠ none ∧ inInit s.pc = true

/-- What a part of a step keeps: the parameters, the launch inputs with a well-formed flash, the geometry, INIT_DONE and
the reset input. It leads into INIT only from inside INIT, or under `p`. -/
structure Preserves (p : Prop) (s t : State) : Prop where
  cfg : t.cfg = s.cfg
  flash : KeepsFlashWf s t
  geom : t.GEOM = s.GEOM
  initDone : t.INIT_DONE = s.INIT_DONE
  line : t.RESET_LINE = s.RESET_LINE
  label : InsideInit t → InsideInit s ∨ p

/-- What `Preserves` reads of a state, but for the place in the microprogram. -/
def kept (s : State) : Config × Launch × Flash × Option Geometry × Bool × Option ResetEvent :=
  (s.cfg, s.launch, s.flash, s.GEOM, s.INIT_DONE, s.RESET_LINE)

theorem Preserves.of_kept {p : Prop} {s t : State} (h : kept t = kept s)
    (hl : InsideInit t → InsideInit s ∨ p) : Preserves p s t := by
  simp only [kept, Prod.mk.injEq] at h
  obtain ⟨hcfg, hlaunch, hflash, hgeom, hdone, hline⟩ := h
  exact ⟨hcfg, .of_eq hlaunch hflash, hgeom, hdone, hline, hl⟩

/-- What `Preserves` reads of a state, with the place in the microprogram. -/
def keptPlace (s : State) :
    (Config × Launch × Flash × Option Geometry × Bool × Option ResetEvent) × Option Request × Label :=
  (kept s, s.ACTIVE, s.pc)

/-- An update that leaves the place in the microprogram alone too. -/
theorem Preserves.silent {p : Prop} {s t : State} (h : keptPlace t = keptPlace s) : Preserves p s t := by
  simp only [keptPlace, Prod.mk.injEq] at h
  obtain ⟨hk, ha, hpc⟩ := h
  exact .of_kept hk fun ⟨hta, htpc⟩ => Or.inl ⟨ha ▸ hta, hpc ▸ htpc⟩

theorem Preserves.refl {p : Prop} (s : State) : Preserves p s s := .silent rfl

theorem Preserves.trans {p : Prop} {s t u : State} (h : Preserves p s t) (g : Preserves p t u) : Preserves p s u :=
  ⟨g.cfg.trans h.cfg, h.flash.trans g.flash, g.geom.trans h.geom, g.initDone.trans h.initDone,
    g.line.trans h.line, fun hu => (g.label hu).elim h.label Or.inr⟩

/-- A part of a step after a silent update. -/
theorem Preserves.after {p : Prop} {s t u : State} (g : Preserves p t u) (h : keptPlace t = keptPlace s) :
    Preserves p s u :=
  (Preserves.silent h).trans g

theorem Preserves.mono {p q : Prop} {s t : State} (hpq : p → q) (h : Preserves p s t) : Preserves q s t :=
  { h with label := fun ht => (h.label ht).imp_right hpq }

/-- A transport primitive or a frame. -/
theorem Preserves.of_keepsControl {p : Prop} {s t : State} (h : KeepsControl s t) (hf : KeepsFlashWf s t) :
    Preserves p s t :=
  ⟨h.cfg, hf, h.geom, h.initDone, h.resetLine, fun ⟨ha, hpc⟩ => Or.inl ⟨h.active ▸ ha, h.pc ▸ hpc⟩⟩

theorem Preserves.raised {p : Prop} (x : Fault) (s : State) : Preserves p s (raise x s) := .silent rfl

/-- A part of a step that ends with a jump. -/
theorem Preserves.jump {p : Prop} {s t : State} (h : kept t = kept s) (hl : inInit t.pc = true → p) :
    Preserves p s t :=
  .of_kept h fun ⟨_, hpc⟩ => Or.inr (hl hpc)

theorem Preserves.ended {p : Prop} (c : Result) (s : State) : Preserves p s (endWith c s) :=
  .of_kept rfl fun ⟨ha, _⟩ => absurd rfl ha

theorem Preserves.andThen {p : Prop} {s t : State} {f : State → State} (h : Preserves p s t)
    (g : ∀ u, Preserves p u (f u)) : Preserves p s (t.andThen f) := by
  rcases andThen_cases t f with ⟨_, e⟩ | ⟨_, _, e⟩ <;> rw [e]
  · exact h.trans (g t)
  · exact h

theorem Preserves.andGoTo {p : Prop} {s t : State} {l : Label} (h : Preserves p s t) (hl : inInit l = true → p) :
    Preserves p s (t.andThen (goTo l)) :=
  h.andThen fun _ => .jump rfl hl

theorem Preserves.need {α : Type} {p : Prop} {s : State} {k : α → State} (r : Option α)
    (h : ∀ v, Preserves p s (k v)) : Preserves p s (need r s k) := by
  rcases need_cases r s k with ⟨v, _, e⟩ | ⟨_, e⟩ <;> rw [e]
  · exact h v
  · exact .raised _ s

/-! ### The primitives, rules R73 to R81 -/

theorem fsSet_preserves {p : Prop} (v : Bool) (s : State) : Preserves p s (fsSet v s) :=
  .of_keepsControl (fsSet_keeps v s) (fsSet_flashWf v s)

theorem clkSet_preserves {p : Prop} (d : U32) (s : State) : Preserves p s (clkSet d s) := .silent rfl

theorem csStart_preserves {p : Prop} (s : State) : Preserves p s (csStart s) :=
  .of_keepsControl (csStart_keeps s) (csStart_flashWf s)

theorem tx_preserves {p : Prop} (b : Byte) (s : State) : Preserves p s (tx b s) :=
  .of_keepsControl (tx_keeps b s) (tx_flashWf b s)

theorem txAddr_preserves {p : Prop} (a : U32) (s : State) : Preserves p s (txAddr a s) :=
  .of_keepsControl (txAddr_keeps a s) (txAddr_flashWf a s)

theorem delay_preserves {p : Prop} (s : State) : Preserves p s (delay s) :=
  .of_keepsControl (delay_keeps s) (delay_flashWf s)

theorem go_preserves {p : Prop} (s : State) : Preserves p s (go s) :=
  .of_keepsControl (go_keeps s) (go_flashWf s)

theorem txAll_preserves {p : Prop} (bs : List Byte) (s : State) : Preserves p s (txAll bs s) :=
  .of_keepsControl (txAll_keeps bs s) (txAll_flashWf bs s)

theorem issue_preserves {p : Prop} (op : Byte) (s : State) : Preserves p s (issue op s) :=
  (csStart_preserves s).andThen (tx_preserves op)

theorem issueAddr_preserves {p : Prop} (op : Byte) (a : U32) (s : State) : Preserves p s (issueAddr op a s) :=
  (issue_preserves op s).andThen (txAddr_preserves a)

theorem rx_preserves {p : Prop} {k : Byte → State → State} (hk : ∀ v u, Preserves p u (k v u)) (s : State) :
    Preserves p s (rx k s) := by
  rcases rx_cases k s with e | e <;> rw [e]
  · exact .raised _ s
  · have hread : Preserves p s (emit (.rx (statusRead s).1) (fetched [(statusRead s).1] (statusRead s).2)) :=
      .of_keepsControl (rx_state_keeps _ _ s) ((statusRead_keepsFlashWf s).trans (.of_eq rfl rfl))
    exact hread.trans (hk _ _)

theorem rxId_preserves {p : Prop} {k : List Byte → State → State} (hk : ∀ v u, Preserves p u (k v u))
    (s : State) : Preserves p s (rxId k s) := by
  rcases rxId_cases k s with ⟨x, e⟩ | e <;> rw [e]
  · exact .raised x s
  · refine Preserves.trans (.of_keepsControl (rxId_state_keeps _ _ _ s) ?_) (hk _ _)
    rw [drawBytes_eq]
    exact .of_eq rfl rfl

/-! ### The microprogram -/

theorem enableFs_preserves (o : Operation) (s : State) : Preserves (o = .unlock) s (enableFs o s) :=
  (fsSet_preserves true s).andGoTo of_decide_eq_true

theorem enableGo_preserves (o : Operation) (s : State) : Preserves (o = .unlock) s (enableGo o s) :=
  (go_preserves s).andThen fun _ => .jump rfl of_decide_eq_true

theorem afterByte_preserves (o : Operation) (k : Nat) (s : State) : Preserves (o = .unlock) s (afterByte o k s) := by
  refine .need _ fun ds => ?_
  split <;> exact .jump rfl of_decide_eq_true

theorem frameOp_preserves (o : Operation) (s : State) : Preserves (o = .unlock) s (frameOp o s) := by
  refine (tx_preserves _ s).andThen fun u => ?_
  split
  · exact afterByte_preserves o 0 u
  · exact .jump rfl of_decide_eq_true

theorem frameAddress_preserves (o : Operation) (s : State) : Preserves (o = .unlock) s (frameAddress o s) :=
  .need _ fun a => (txAddr_preserves a s).andThen (afterByte_preserves o 0)

theorem frameData_preserves (o : Operation) (k : Nat) (s : State) : Preserves (o = .unlock) s (frameData o k s) :=
  .need _ fun _ => .need _ fun b => (tx_preserves b s).andThen (afterByte_preserves o (k + 1))

theorem frameGo_preserves (o : Operation) (s : State) : Preserves (o = .unlock) s (frameGo o s) :=
  (go_preserves s).andThen fun _ => .jump rfl of_decide_eq_true

theorem pollCs_preserves (o : Operation) (s : State) : Preserves (o = .unlock) s (pollCs o s) :=
  (csStart_preserves s).andGoTo of_decide_eq_true

theorem pollBegin_preserves (o : Operation) (s : State) : Preserves (o = .unlock) s (pollBegin o s) :=
  (pollCs_preserves o _).after rfl

theorem pollRx_preserves (o : Operation) (s : State) : Preserves (o = .unlock) s (pollRx o s) :=
  rx_preserves (k := fun v t => goTo (.pollTest o) (setStatus v t)) (fun _ _ => .jump rfl of_decide_eq_true) s

theorem readIdRx_preserves (s : State) : Preserves True s (readIdRx s) :=
  rxId_preserves (k := fun ids t => goTo .idGo (setId ids t)) (fun _ _ => .jump rfl fun _ => trivial) s

theorem initDisableFs_preserves (s : State) : Preserves True s (initDisableFs s) :=
  .need _ fun _ => ((fsSet_preserves false _).andGoTo fun _ => trivial).after rfl

/-- INIT goes on from its entry only where INIT_DONE is false, rule R136. -/
theorem initBegin_preserves (s : State) : Preserves (s.INIT_DONE = false) s (initBegin s) := by
  unfold initBegin
  split
  · exact .raised _ s
  next hdone =>
  have hnew : s.INIT_DONE = false := Bool.eq_false_of_not_eq_true hdone
  split <;> exact (clkSet_preserves _ s).andGoTo fun _ => hnew

theorem eraseDone_preserves (s : State) : Preserves False s (eraseDone s) := by
  unfold eraseDone
  split
  · exact (fsSet_preserves false s).andGoTo nofun
  · exact .ended _ s

theorem eraseSector_preserves (i : I32) (s : State) : Preserves False s (eraseSector i s) := by
  refine .need _ fun size => ?_
  split
  · exact .raised _ s
  · exact ((enableFs_preserves .sector _).mono nofun).after rfl

theorem eraseLoop_preserves (s : State) : Preserves False s (eraseLoop s) := by
  refine .need _ fun i => .need _ fun last => ?_
  split
  · exact eraseDone_preserves s
  · exact (eraseSector_preserves i _).after rfl

theorem eraseBegin_preserves (s : State) : Preserves False s (eraseBegin s) := by
  unfold eraseBegin
  split
  · exact .raised _ s
  · exact .need _ fun _ => (eraseLoop_preserves _).after rfl

theorem eraseNext_preserves (s : State) : Preserves False s (eraseNext s) :=
  .need _ fun _ => (eraseLoop_preserves _).after rfl

theorem writeProgram_preserves {o : Operation} (ho : o ≠ .unlock) (cur : U32) (s : State) :
    Preserves False s (writeProgram o cur s) :=
  ((enableFs_preserves o _).mono ho).after rfl

theorem writeLoop_preserves (s : State) : Preserves False s (writeLoop s) := by
  refine .need _ fun rem => ?_
  split
  · exact (fsSet_preserves false s).andGoTo nofun
  refine .need _ fun cur => ?_
  split
  · exact (writeProgram_preserves (o := .page) nofun cur _).after rfl
  · exact writeProgram_preserves (o := .byte) nofun cur s

theorem writeBegin_preserves (s : State) : Preserves False s (writeBegin s) := by
  unfold writeBegin
  split
  · exact .raised _ s
  · exact .need _ fun _ => (writeLoop_preserves _).after rfl

theorem writeNext_preserves (s : State) : Preserves False s (writeNext s) :=
  .need _ fun _ => .need _ fun _ => .need _ fun _ => .need _ fun _ =>
    (writeLoop_preserves _).after rfl

theorem writeFinish_preserves (s : State) : Preserves False s (writeFinish s) := by
  refine .need _ fun rem => ?_
  split <;> exact .ended _ s

theorem pollReturn_preserves (o : Operation) (s : State) : Preserves (o = .unlock) s (pollReturn o s) := by
  cases o with
  | unlock => exact (fsSet_preserves true s).andGoTo fun _ => rfl
  | sector => exact (eraseNext_preserves s).mono nofun
  | page => exact (writeNext_preserves s).mono nofun
  | byte => exact (writeNext_preserves s).mono nofun

theorem pollTest_preserves (o : Operation) (s : State) : Preserves (o = .unlock) s (pollTest o s) := by
  refine .need _ fun v => .need _ fun n => ?_
  dsimp only
  split
  · exact (pollReturn_preserves o _).after rfl
  split
  · exact (Preserves.ended _ _).after rfl
  · exact (pollCs_preserves o _).after rfl

/-- Where a step can lead into INIT from: inside it, or its entry where INIT_DONE is false. -/
abbrev MayEnterInit (s : State) : Prop :=
  inInit s.pc = true ∨ s.INIT_DONE = false

/-- A step at an operation's label leads into INIT only where the operation is INIT's own, the unlock. -/
theorem Preserves.ofOperation {o : Operation} {s t : State} (hl : inInit s.pc = decide (o = .unlock))
    (h : Preserves (o = .unlock) s t) : Preserves (MayEnterInit s) s t :=
  h.mono fun ho => Or.inl (hl.trans (decide_eq_true ho))

/-- Every step of the microprogram but the store of INIT. -/
theorem microStep_preserves {s : State} (hstore : s.pc ≠ .initStore) :
    Preserves (MayEnterInit s) s (microStep s) := by
  unfold microStep
  cases hpc : s.pc with
  | initStore => exact absurd hpc hstore
  | haltIdle => exact .refl s
  | initEntry => exact (initBegin_preserves s).mono Or.inr
  | enFs o => exact (enableFs_preserves o s).ofOperation (congrArg inInit hpc)
  | enCs o => exact ((csStart_preserves s).andGoTo of_decide_eq_true).ofOperation (congrArg inInit hpc)
  | enTx o => exact ((tx_preserves _ s).andGoTo of_decide_eq_true).ofOperation (congrArg inInit hpc)
  | enGo o => exact (enableGo_preserves o s).ofOperation (congrArg inInit hpc)
  | frCs o => exact ((csStart_preserves s).andGoTo of_decide_eq_true).ofOperation (congrArg inInit hpc)
  | frOp o => exact (frameOp_preserves o s).ofOperation (congrArg inInit hpc)
  | frAddr o => exact (frameAddress_preserves o s).ofOperation (congrArg inInit hpc)
  | frData o k => exact (frameData_preserves o k s).ofOperation (congrArg inInit hpc)
  | frGo o => exact (frameGo_preserves o s).ofOperation (congrArg inInit hpc)
  | pollStart o => exact (pollBegin_preserves o s).ofOperation (congrArg inInit hpc)
  | pollTx o => exact ((tx_preserves _ s).andGoTo of_decide_eq_true).ofOperation (congrArg inInit hpc)
  | pollDelay o => exact ((delay_preserves s).andGoTo of_decide_eq_true).ofOperation (congrArg inInit hpc)
  | pollRx o => exact (pollRx_preserves o s).ofOperation (congrArg inInit hpc)
  | pollTest o => exact (pollTest_preserves o s).ofOperation (congrArg inInit hpc)
  | initFsOn => exact (fsSet_preserves true s).andGoTo fun _ => Or.inl (congrArg inInit hpc)
  | idCs => exact (csStart_preserves s).andGoTo fun _ => Or.inl (congrArg inInit hpc)
  | idTx => exact (tx_preserves _ s).andGoTo fun _ => Or.inl (congrArg inInit hpc)
  | idDelay => exact (delay_preserves s).andGoTo fun _ => Or.inl (congrArg inInit hpc)
  | idRx => exact (readIdRx_preserves s).mono fun _ => Or.inl (congrArg inInit hpc)
  | idGo => exact (go_preserves s).andGoTo fun _ => Or.inl (congrArg inInit hpc)
  | initFsOff => exact (initDisableFs_preserves s).mono fun _ => Or.inl (congrArg inInit hpc)
  | initProbe => exact .jump rfl fun _ => Or.inl (congrArg inInit hpc)
  | eraseEntry => exact (eraseBegin_preserves s).mono nofun
  | eraseEnd => exact .ended _ s
  | writeEntry => exact (writeBegin_preserves s).mono nofun
  | writeEnd => exact (writeFinish_preserves s).mono nofun

/-- The store of INIT ends with InitError or faults, or it sets a valid geometry and INIT_DONE, rules R131 and R135. -/
theorem initStore_cases (s : State) :
    Preserves False s (initStore s) ∨
    ∃ g, validGeometry g = true ∧
      initStore s = endWith (.okSize g.total_size) { s with GEOM := some g, INIT_DONE := true } := by
  unfold initStore
  split
  · exact Or.inl (.ended _ s)
  next g _ =>
  split
  · exact Or.inl (.raised _ s)
  next hg => exact Or.inr ⟨g, Bool.eq_true_of_not_eq_false hg, rfl⟩

/-! ### The moves between requests -/

theorem runs_preserves {p : Prop} {f : State → State} {s t : State} (hf : ∀ u, Preserves p u (f u))
    (h : runs s f = .next t) : Preserves p s t := by
  cases hfault : s.FAULT with
  | none =>
    rw [runs_ok hfault] at h
    cases h
    exact hf s
  | some x => simp [runs_fault hfault] at h

/-- A request starts at its entry, which is not inside INIT. -/
theorem admitRequest_preserves {p : Prop} {r : Request} {s t : State} (h : admitRequest r s = .next t) :
    Preserves p s t := by
  rcases admit_cases r s with ⟨_, _, _, e⟩ | ⟨x, _, e⟩ | e <;> rw [e] at h <;> cases h
  exact .jump rfl fun hin => by cases r <;> cases hin

theorem exec_preserves {p : Prop} {i : Instr} {s t : State} (h : exec i s = .next t) : Preserves p s t := by
  cases i with
  | rdid =>
    exact runs_preserves (fun u => (((issue_preserves _ u).andThen delay_preserves).andThen
      (rxId_preserves (k := setId) fun _ _ => .silent rfl)).andThen go_preserves) h
  | wren => exact runs_preserves (fun u => (issue_preserves _ u).andThen go_preserves) h
  | rdsr =>
    exact runs_preserves (fun u => ((issue_preserves _ u).andThen delay_preserves).andThen
      (rx_preserves (k := setStatus) fun _ _ => .silent rfl)) h
  | se a => exact runs_preserves (fun u => (issueAddr_preserves _ a u).andThen go_preserves) h
  | pp a data =>
    exact runs_preserves (fun u => ((issueAddr_preserves _ a u).andThen (txAll_preserves data)).andThen go_preserves) h
  | ce => exact runs_preserves (fun u => (issue_preserves _ u).andThen go_preserves) h
  | wrsr v => exact runs_preserves (fun u => ((issue_preserves _ u).andThen (tx_preserves v)).andThen go_preserves) h
  | init => exact admitRequest_preserves h
  | erase first last => exact admitRequest_preserves h
  | write dest data => exact admitRequest_preserves h

theorem hostRead_preserves {p : Prop} {x : U32} {s t : State} (h : hostRead x s = .next t) : Preserves p s t := by
  unfold hostRead at h
  split at h
  · cases h
    exact .raised _ s
  split at h
  · cases h
  split at h <;> cases h <;> exact .silent rfl

/-- A statement's move: an instruction, a frame sent as it is, a call or a window read. -/
theorem step_program_preserves {p : Prop} {s t : State} (h : Idle s) {q : Stmt} {rest : List Stmt}
    (hp : s.PROGRAM = q :: rest) (hstep : step s = .next t) : Preserves p { s with PROGRAM := rest } t := by
  cases hd : decodeStmt s.cfg q with
  | ok i =>
    rw [step_program_ok h hp hd] at hstep
    exact exec_preserves hstep
  | error e =>
    cases q with
    | frame bytes =>
      rw [step_program_done h hp (fetchStmt_frame_error (s := { s with PROGRAM := rest }) hd)] at hstep
      cases hstep
      exact .of_keepsControl (sendRaw_keeps bytes _) (sendRaw_flashWf bytes _)
    | request bytes =>
      rw [step_program_done h hp (fetchStmt_request_error (s := { s with PROGRAM := rest }) hd)] at hstep
      cases hstep
    | call c =>
      rw [step_program_done h hp rfl] at hstep
      cases hstep
      exact .of_keepsControl (runCall_keeps c _) (runCall_flashWf c _)
    | read x =>
      rw [step_program_done h hp rfl] at hstep
      exact hostRead_preserves hstep

theorem step_idle_preserves {p : Prop} {s t : State} (h : Idle s) (hstep : step s = .next t) : Preserves p s t := by
  cases hp : s.PROGRAM with
  | nil =>
    rw [step_program_nil h hp] at hstep
    cases hstep
    exact .refl s
  | cons q rest => exact (step_program_preserves h hp hstep).after rfl

/-- Every step is a reset, or INIT's store of a valid geometry, or it keeps what `Preserves` says. -/
theorem step_cases {s t : State} (h : step s = .next t) :
    (∃ e, s.RESET_LINE = some e ∧ t = applyReset e s) ∨
    (s.RESET_LINE = none ∧ s.ACTIVE ≠ none ∧ s.pc = .initStore ∧ ∃ g, validGeometry g = true ∧
      t = endWith (.okSize g.total_size) { s with GEOM := some g, INIT_DONE := true }) ∨
    (s.RESET_LINE = none ∧ Preserves (s.ACTIVE ≠ none ∧ MayEnterInit s) s t) := by
  have hf := fault_none_of_step h
  rcases Option.eq_none_or_eq_some s.RESET_LINE with hr | ⟨e, hr⟩
  · by_cases ha : s.ACTIVE = none
    · exact Or.inr (Or.inr ⟨hr, step_idle_preserves ⟨hf, ha, hr⟩ h⟩)
    rw [step_active hf hr ha] at h
    cases h
    by_cases hpc : s.pc = .initStore
    · have hstep : microStep s = initStore s := by simp only [microStep, hpc]
      rcases initStore_cases s with hs | hs <;> rw [hstep]
      · exact Or.inr (Or.inr ⟨hr, hs.mono nofun⟩)
      · exact Or.inr (Or.inl ⟨hr, ha, hpc, hs⟩)
    · exact Or.inr (Or.inr ⟨hr, (microStep_preserves hpc).mono fun hm => ⟨ha, hm⟩⟩)
  · rw [step_reset hf hr] at h
    cases h
    exact Or.inl ⟨e, hr, rfl⟩

/-! ## The invariants -/

theorem geometryWf_of_valid {g : Geometry} (h : validGeometry g = true) : geometryWf (some g) := by
  obtain ⟨hcount, _, _, hmod⟩ := of_decide_eq_true h
  exact ⟨hcount, hmod⟩

theorem flashWf_atPowerOn {size : Nat} (c : Config) {contents : Memory} (h : arrayWf size contents) :
    flashWf size (Flash.atPowerOn c contents) :=
  ⟨h, Iff.intro (fun _ => rfl) (fun _ => rfl), trivial⟩

/-- Inside INIT, and wherever INIT_DONE is false, there is no geometry yet. -/
theorem Wf.geom_none {s : State} (h : Wf s) (ha : s.ACTIVE ≠ none) (hm : MayEnterInit s) : s.GEOM = none := by
  rcases hm with hin | hdone
  · exact h.once ha hin
  · by_contra hg
    exact absurd (h.done.mpr hg) (by simp [hdone])

theorem Preserves.wf {p : Prop} {s t : State} (h : Preserves p s t) (hs : Wf s) (hp : p → s.GEOM = none) : Wf t where
  flash := h.flash.2 hs.flash
  geom := h.geom ▸ hs.geom
  done := by rw [h.initDone, h.geom]; exact hs.done
  once ha hin := by
    rw [h.geom]
    exact (h.label ⟨ha, hin⟩).elim (fun ⟨hsa, hsin⟩ => hs.once hsa hsin) hp
  line := by rw [h.flash.1, h.line]; exact hs.line

theorem resetSequencer_wf {s : State} (h : Wf s) : Wf (resetSequencer s) where
  flash := h.flash
  geom := trivial
  done := ⟨nofun, fun hg => absurd rfl hg⟩
  once _ _ := rfl
  line := trivial

theorem applyReset_wf {e : ResetEvent} {s : State} (h : Wf s) (hr : s.RESET_LINE = some e) : Wf (applyReset e s) := by
  have hseq := resetSequencer_wf h
  cases e with
  | sequencer => exact hseq
  | powerOn contents =>
    have hline := h.line
    rw [hr] at hline
    exact { hseq with flash := flashWf_atPowerOn s.cfg hline }

/-- The store of a valid geometry ends INIT and keeps a state well formed, rule R19. -/
theorem storeGeometry_wf {s : State} {g : Geometry} (h : Wf s) (hg : validGeometry g = true) (c : Result) :
    Wf (endWith c { s with GEOM := some g, INIT_DONE := true }) where
  flash := h.flash
  geom := geometryWf_of_valid hg
  done := ⟨fun _ => nofun, fun _ => rfl⟩
  once ha := absurd rfl ha
  line := h.line

/-- Settles O53, one argument for each kind of step. -/
theorem everyStepKeepsWellFormed : Obligations.EveryStepKeepsWellFormed := by
  intro s t hs hstep
  rcases step_cases hstep with ⟨e, hr, rfl⟩ | ⟨_, _, _, g, hg, rfl⟩ | ⟨_, hp⟩
  · exact applyReset_wf hs hr
  · exact storeGeometry_wf hs hg _
  · exact hp.wf hs fun ⟨ha, hm⟩ => hs.geom_none ha hm

/-- Settles O58. -/
theorem configurationIsConstant : Obligations.ConfigurationIsConstant := by
  intro s t hstep
  rcases step_cases hstep with ⟨e, _, rfl⟩ | ⟨_, _, _, g, _, rfl⟩ | ⟨_, hp⟩
  · exact ⟨applyReset_cfg e s, applyReset_launch e s⟩
  · exact ⟨rfl, rfl⟩
  · exact ⟨hp.cfg, hp.flash.1⟩

/-- Settles O59: INIT's store cannot be reached with a geometry, because none is set inside INIT. -/
theorem geometryIsImmutable : Obligations.GeometryIsImmutable := by
  intro s t g hs hline hg hstep
  rcases step_cases hstep with ⟨e, hr, _⟩ | ⟨_, ha, hpc, _⟩ | ⟨_, hp⟩
  · exact absurd (hline.symm.trans hr) nofun
  · have hnone := hs.once ha (congrArg inInit hpc)
    exact absurd (hg.symm.trans hnone) nofun
  · exact ⟨hp.geom.trans hg, hp.initDone.trans (hs.done.mpr (by simp [hg]))⟩

/-! ## Faults and the order of requests -/

theorem admitRequest_fault {s : State} {x : Fault} (h : s.FAULT = some x) (r : Request) :
    admitRequest r s = .fault x := by
  simp only [admitRequest, h]

/-- Settles O7: every frame goes through `runs` and every request through `admitRequest`. -/
theorem faultIsSticky : Obligations.FaultIsSticky := by
  intro s x hf
  refine ⟨by simp only [step, fetch, hf], fun i => ?_⟩
  cases i <;> simp only [exec, execRdid, execWren, execRdsr, execSe, execPp, execCe, execWrsr, execInit, execErase,
    execWrite, runs_fault hf, admitRequest_fault hf]

/-- Settles O34: the check of INIT_DONE comes first in each request's entry step. -/
theorem requestOrderIsChecked : Obligations.RequestOrderIsChecked := by
  intro s hf hr ha
  refine ⟨fun hdone hpc => ?_, fun hdone hpc => ?_⟩ <;> rw [step_active hf hr ha]
  · rcases hpc with hpc | hpc
    · simp [microStep, hpc, eraseBegin, hdone, raise]
    · simp [microStep, hpc, writeBegin, hdone, raise]
  · simp [microStep, hpc, initBegin, hdone, raise]

/-! ## Reset and power-on -/

/-- Settles O50: the table of `State.powerOn`, field by field. -/
theorem resetValues : Obligations.ResetValues :=
  fun _ _ _ => ⟨rfl, rfl, rfl, rfl, rfl, rfl, rfl, rfl, rfl, rfl, rfl, rfl, rfl, rfl, rfl⟩

/-- A reset is a reset of the sequencer, and the flash is the event's. -/
theorem applyReset_eq (e : ResetEvent) (s : State) :
    applyReset e s = { resetSequencer s with flash := (applyReset e s).flash } := by
  cases e <;> rfl

/-- Settles O51: one table for both resets, and the flash by the kind of reset. -/
theorem resetsFollowTheTable : Obligations.ResetsFollowTheTable := by
  intro s e hf hr
  refine ⟨applyReset e s, step_reset hf hr, applyReset_cfg e s, applyReset_launch e s, ?_⟩
  have hsequencer : e = .sequencer → (applyReset e s).flash = s.flash := by rintro rfl; rfl
  have hpowerOn : ∀ contents, e = .powerOn contents →
      (applyReset e s).flash = Flash.atPowerOn s.cfg contents := by rintro contents rfl; rfl
  rw [applyReset_eq]
  exact ⟨rfl, rfl, rfl, rfl, rfl, rfl, rfl, rfl, rfl, rfl, rfl, rfl, rfl, rfl, hsequencer, hpowerOn⟩

theorem powerOn_wf (c : Config) (l : Launch) {contents : Memory} (h : arrayWf l.FLASH_SIZE contents) :
    Wf (State.powerOn c l contents) where
  flash := flashWf_atPowerOn c h
  geom := trivial
  done := ⟨nofun, fun hg => absurd rfl hg⟩
  once _ _ := rfl
  line := trivial

/-- Settles O54: State.reset is the power-on state with an empty array. -/
theorem startIsWellFormed : Obligations.StartIsWellFormed :=
  ⟨fun c l _ h => powerOn_wf c l h, powerOn_wf _ _ ⟨Memory.wf_nil, nofun⟩⟩

/-- Only the byte-programmable variant comes up protected, rule R39. -/
theorem powerOn_unlocked (c : Config) (l : Launch) (contents : Memory) : Unlocked (State.powerOn c l contents) := by
  rintro (hdone | hvariant)
  · cases hdone
  · replace hvariant : c.VARIANT = .generic := hvariant
    simp [State.powerOn, Flash.atPowerOn, hvariant]

theorem powerOn_conforms {c : Config} {l : Launch} (contents : Memory) {program : List Stmt} (hc : c.Valid)
    (hpoll : c.POLL_LIMIT = none) (hl : l.Valid) (hp : program.all hostStmt = true) :
    Conforms { State.powerOn c l contents with PROGRAM := program } where
  cfg := hc
  unbounded := hpoll
  launch := hl
  host := hp
  reset _ := rfl
  geom := nofun
  faulted := nofun
  running _ := ⟨rfl, rfl, ⟨rfl, nofun⟩, powerOn_unlocked c l contents⟩

/-- Settles O56: State.reset is a power-on state with no program, and its parameters are valid. -/
theorem startConforms : Obligations.StartConforms :=
  ⟨fun _ _ contents _ hc hpoll hl hp => powerOn_conforms contents hc hpoll hl hp,
    powerOn_conforms (c := Config.default) (l := Launch.default) [] (by decide) rfl (by decide) rfl⟩

end Sys2Proof.Machine
end

section
/-! PROOFS. A sector's visit and ERASE of a range, from its Start to `Res`: spec/42_enable_and_poll.md rules R109 and
R110, spec/43_erase_and_program.md rule R114, spec/44_orchestrators.md rules R126 to R130. -/

namespace Sys2Proof.Machine

/-! ## Runs of a request -/

/-- Some number of steps leads from `s` to `t`. -/
def Reaches (s t : State) : Prop :=
  ∃ k, Sys2Proof.core.run k s = .next t

theorem Reaches.refl (s : State) : Reaches s s := ⟨0, rfl⟩

theorem run_add {s t : State} {j : Nat} (h : Sys2Proof.core.run j s = .next t) (k : Nat) :
    Sys2Proof.core.run (j + k) s = Sys2Proof.core.run k t := by
  induction j generalizing s with
  | zero =>
    cases h
    rw [Nat.zero_add]
  | succ j ih =>
    rw [Nat.succ_add]
    simp only [Host.Core.run] at h ⊢
    split at h
    · next hs => exact ih h
    · cases h
    · cases h

theorem Reaches.trans {s t u : State} (h : Reaches s t) (g : Reaches t u) : Reaches s u := by
  obtain ⟨j, hj⟩ := h
  obtain ⟨k, hk⟩ := g
  exact ⟨j + k, (run_add hj k).trans hk⟩

/-- What a step of a request leads to, its run reaches. -/
theorem Reaches.active {s t u : State} (hf : s.FAULT = none) (hr : s.RESET_LINE = none) (ha : s.ACTIVE ≠ none)
    (hstep : microStep s = t) (h : Reaches t u) : Reaches s u := by
  obtain ⟨k, hk⟩ := h
  exact ⟨k + 1, run_active hf hr ha hstep hk⟩

/-! ## What an operation leaves alone -/

/-- The state with everything blanked out that the steps of an operation write: the place in the microprogram, the
trace, the draws, the flash, the bus but for FS, and the registers of POLL. -/
def standing (s : State) : State :=
  { s with
    PHASE := .idle
    pc := .haltIdle
    TRACE := []
    draws := ⟨[], [], [], [], 0⟩
    flash := ⟨[], false, false, .none, .reads 0, false⟩
    bus := ⟨s.bus.FS, 0#31, 0#32, 0#32, [], false, [], .none⟩
    work := { s.work with STATUS := none, POLLS := none } }

@[simp] theorem standing_goTo (l : Label) (s : State) : standing (goTo l s) = standing s := rfl
@[simp] theorem standing_emit (e : Event) (s : State) : standing (emit e s) = standing s := rfl
@[simp] theorem standing_setStatus (v : Byte) (s : State) : standing (setStatus v s) = standing s := rfl
@[simp] theorem standing_fetched (bs : List Byte) (s : State) : standing (fetched bs s) = standing s := rfl

/-- A request in progress in bit-bang mode, with valid parameters, no fault and no reset. -/
structure Running (s : State) : Prop where
  fault : s.FAULT = none
  line : s.RESET_LINE = none
  active : s.ACTIVE ≠ none
  valid : s.cfg.Valid
  fs : s.bus.FS = true

/-- `t` is in the same standing as `s`, field by field. -/
theorem standing_fields {s t : State} (h : standing t = standing s) :
    t.cfg = s.cfg ∧ t.launch = s.launch ∧ t.GEOM = s.GEOM ∧ t.ACTIVE = s.ACTIVE ∧ t.FAULT = s.FAULT ∧
    t.RESET_LINE = s.RESET_LINE ∧ t.bus.FS = s.bus.FS ∧ t.work.SEC_I = s.work.SEC_I ∧
    t.work.SEC_LAST = s.work.SEC_LAST := by
  simp only [standing, State.mk.injEq, Transport.mk.injEq, Work.mk.injEq] at h
  tauto

theorem Running.of_standing {s t : State} (h : Running s) (e : standing t = standing s) : Running t := by
  obtain ⟨hcfg, _, _, hactive, hfault, hline, hfs, _, _⟩ := standing_fields e
  exact ⟨hfault.trans h.fault, hline.trans h.line, hactive ▸ h.active, hcfg ▸ h.valid, hfs.trans h.fs⟩

theorem standing_of_keepsControl {s t : State} (h : KeepsControl s t) (hf : t.FAULT = s.FAULT)
    (hb : t.bus.FS = s.bus.FS) : standing t = standing s := by
  simp only [standing, h.cfg, h.launch, h.geom, h.initDone, h.active, h.result, h.work, h.program, h.hostByte,
    h.resetLine, hf, hb]

theorem statusRead_standing (s : State) : standing (statusRead s).2 = standing s := by
  obtain ⟨hbus, hfault, _⟩ := statusRead_frame s
  exact standing_of_keepsControl (statusRead_keeps s) hfault (congrArg Transport.FS hbus)

/-! ## The draws of a cycle -/

theorem programAll_durations (ws : List Host.Cell) (s : State) :
    (programAll ws s).draws.durations = s.draws.durations := by
  induction ws generalizing s with
  | nil => rfl
  | cons c ws ih =>
    refine (ih (programByte c.1 c.2 s)).trans ?_
    unfold programByte
    split <;> rfl

/-- The end of a cycle draws no duration. -/
theorem complete_durations (s : State) : (complete s).draws.durations = s.draws.durations := by
  simp only [complete, closeCycle_draws]
  cases s.flash.PENDING with
  | none => rfl
  | erase a n => rfl
  | eraseAll => rfl
  | program ws => exact programAll_durations ws s
  | writeSR v =>
    simp only [cycleEffect]
    split <;> rfl

theorem statusRead_durations (s : State) : (statusRead s).2.draws.durations = s.draws.durations := by
  rcases statusRead_cases s with ⟨_, _, e⟩ | ⟨_, _, e⟩ | ⟨_, e⟩ <;> rw [e]
  · exact complete_durations s
  · rfl
  · rfl

/-- Under FlashCompletes the next cycle is finite, and the cycles after it still are. -/
theorem FlashCompletes.next {n : Nat} {d : Draws} (h : FlashCompletes (n + 1) d) :
    ∃ k rest, d.durations = .reads k :: rest ∧ ∀ d' : Draws, d'.durations = rest → FlashCompletes n d' := by
  obtain ⟨hlen, hfinite⟩ := h
  cases hd : d.durations with
  | nil => simp [hd] at hlen
  | cons x rest =>
    rw [hd] at hlen hfinite
    cases x with
    | forever => exact absurd rfl (hfinite .forever (by simp))
    | reads k =>
      refine ⟨k, rest, rfl, fun d' hd' => ?_⟩
      rw [FlashCompletes, hd']
      exact ⟨Nat.le_of_succ_le_succ hlen, fun y hy => hfinite y (by simp [hy])⟩

/-! ## POLL until the cycle completes, rules R109 and R110 -/

/-- TX(OP_RDSR) of an iteration. -/
theorem pollTx_ok {s : State} {o : Operation} (hf : s.FAULT = none) (hc : s.bus.CS = true)
    (hb : s.bus.FRAME = []) (hr : s.bus.FRAME_RD = .none) :
    pollTx o s = { s with
      pc := .pollDelay o
      bus := { s.bus with FRAME := [s.cfg.OP_RDSR] }
      TRACE := s.TRACE ++ [.tx s.cfg.OP_RDSR] } := by
  unfold pollTx
  rw [tx_ok hc hr, andThen_ok (by exact hf), hb]
  rfl

/-- DELAY of an iteration. -/
theorem pollDelay_ok {s : State} {o : Operation} (hf : s.FAULT = none) (hc : s.bus.CS = true)
    (hr : s.bus.FRAME_RD = .none) :
    pollDelay o s = { s with
      pc := .pollRx o
      bus := { s.bus with FRAME_RD := .opened }
      TRACE := s.TRACE ++ [.delay] } := by
  unfold pollDelay
  rw [delay_ok hc hr, andThen_ok (by exact hf)]
  rfl

/-- A status read of the poll in `s`, in `t`: at the tests, STATUS says whether the flash is busy, and the flash is as
the read leaves it. -/
structure PollReads (o : Operation) (s t : State) : Prop where
  pc : t.pc = .pollTest o
  standing : standing t = standing s
  frame : t.bus.FRAME = [s.cfg.OP_RDSR]
  status : ∃ v, t.work.STATUS = some v ∧ busyFlag v = t.flash.BUSY
  polls : t.work.POLLS = s.work.POLLS
  durations : t.draws.durations = s.draws.durations
  flash : ∃ r : State, r.cfg = s.cfg ∧ r.launch = s.launch ∧ r.flash = s.flash ∧ t.flash = (statusRead r).2.flash

/-- What is written after a status read, over the state `u` that the read leaves. -/
theorem pollReads_of_read {s u : State} (o : Operation) {v : Byte} (hf : s.bus.FRAME = [s.cfg.OP_RDSR])
    (hstand : standing u = standing s) (hbus : u.bus = s.bus) (hwork : u.work = s.work)
    (hflag : busyFlag v = u.flash.BUSY) (hd : u.draws.durations = s.draws.durations)
    (hflash : u.flash = (statusRead s).2.flash) :
    PollReads o s (goTo (.pollTest o) (setStatus v (emit (.rx v) (fetched [v] u)))) where
  pc := rfl
  standing := by simpa using hstand
  frame := (congrArg Transport.FRAME hbus).trans hf
  status := ⟨v, rfl, hflag⟩
  polls := (congrArg Work.POLLS hwork : u.work.POLLS = s.work.POLLS)
  durations := hd
  flash := ⟨s, rfl, rfl, rfl, hflash⟩

theorem pollRx_reads {s : State} (o : Operation) (hc : s.bus.CS = true) (hf : s.bus.FRAME = [s.cfg.OP_RDSR])
    (hr : s.bus.FRAME_RD = .opened) : PollReads o s (pollRx o s) := by
  rw [pollRx_ok hc hf hr]
  exact pollReads_of_read o hf (statusRead_standing s) (statusRead_frame s).1 (statusRead_keeps s).work
    (busyFlag_statusRead s) (statusRead_durations s) rfl

/-- The three steps of an iteration after its CS_START. -/
theorem pollIteration_reads {s : State} {o : Operation} (h : Running s) (hpc : s.pc = .pollTx o)
    (hc : s.bus.CS = true) (hb : s.bus.FRAME = []) (hr : s.bus.FRAME_RD = .none) :
    ∃ t, Reaches s t ∧ PollReads o s t := by
  have htx : microStep s = pollTx o s := by simp only [microStep, hpc]
  refine ⟨_, Reaches.active h.fault h.line h.active (htx.trans (pollTx_ok h.fault hc hb hr)) <|
    Reaches.active h.fault h.line h.active (pollDelay_ok h.fault hc hr) <|
    Reaches.active h.fault h.line h.active rfl (.refl _), ?_⟩
  have hreads := pollRx_reads o (s := { s with
      pc := .pollRx o
      bus := { s.bus with FRAME := [s.cfg.OP_RDSR], FRAME_RD := .opened }
      TRACE := s.TRACE ++ [.tx s.cfg.OP_RDSR] ++ [.delay] }) hc rfl rfl
  exact { hreads with }

/-- How the poll of a cycle of `s` ends: at the tests after a status that is not busy, with the flash as the completed
cycle leaves it. -/
structure PollEnds (o : Operation) (s t : State) : Prop where
  pc : t.pc = .pollTest o
  standing : standing t = standing s
  frame : t.bus.FRAME = [s.cfg.OP_RDSR]
  status : ∃ v, t.work.STATUS = some v ∧ busyFlag v = false
  polls : t.work.POLLS.isSome
  durations : t.draws.durations = s.draws.durations
  flash : ∃ r : State, r.cfg = s.cfg ∧ r.launch = s.launch ∧ r.flash = { s.flash with LEFT := .reads 0 } ∧
    t.flash = (complete r).flash

/-- A read of a cycle with no busy read left completes it. -/
theorem PollReads.ends {o : Operation} {s t : State} (h : PollReads o s t) (hp : s.work.POLLS.isSome)
    (hbusy : s.flash.BUSY = true) (hleft : s.flash.LEFT = .reads 0) : PollEnds o s t := by
  obtain ⟨r, hcfg, hlaunch, hr, ht⟩ := h.flash
  have hdue : t.flash = (complete r).flash := by
    rcases statusRead_cases r with ⟨_, _, e⟩ | ⟨_, hl, _⟩ | ⟨hb, _⟩
    · rw [ht, e]; rfl
    · exact absurd (hr ▸ hleft) hl
    · exact absurd ((hr ▸ hbusy).symm.trans hb) nofun
  have hidle : t.flash.BUSY = false := by rw [hdue, complete, closeCycle_flash]
  obtain ⟨v, hv, hflag⟩ := h.status
  refine ⟨h.pc, h.standing, h.frame, ⟨v, hv, hflag.trans hidle⟩, h.polls ▸ hp, h.durations,
    r, hcfg, hlaunch, ?_, hdue⟩
  rw [hr, ← hleft]

/-- A read of a cycle with busy reads left leaves one less. -/
theorem PollReads.flash_busy {o : Operation} {s t : State} {n : Nat} (h : PollReads o s t)
    (hbusy : s.flash.BUSY = true) (hleft : s.flash.LEFT = .reads (n + 1)) :
    t.flash = { s.flash with LEFT := .reads n } := by
  obtain ⟨r, _, _, hr, ht⟩ := h.flash
  rcases statusRead_cases r with ⟨_, hl, _⟩ | ⟨_, _, e⟩ | ⟨hb, _⟩
  · exact absurd ((hr ▸ hleft).symm.trans hl) (by simp)
  · rw [ht, e, hr, hleft]; rfl
  · exact absurd ((hr ▸ hbusy).symm.trans hb) nofun

/-- The step of the tests after a busy status: the next iteration begins. -/
theorem pollTest_reaches_pollTx {s t : State} {o : Operation} (h : Running s) (hlimit : s.cfg.POLL_LIMIT = none)
    (hreads : PollReads o s t) (hp : s.work.POLLS.isSome) (hbusy : t.flash.BUSY = true) :
    ∃ u, Reaches t u ∧ u.pc = .pollTx o ∧ standing u = standing s ∧ u.bus.CS = true ∧ u.bus.FRAME = [] ∧
      u.bus.FRAME_RD = .none ∧ u.work.POLLS.isSome ∧ u.draws = t.draws ∧ u.flash = t.flash := by
  have ht := h.of_standing hreads.standing
  obtain ⟨hcfg, _⟩ := standing_fields hreads.standing
  obtain ⟨v, hv, hflag⟩ := hreads.status
  obtain ⟨n, hn⟩ := Option.isSome_iff_exists.mp (hreads.polls ▸ hp)
  have hstep : microStep t = pollCs o { t with work := { t.work with POLLS := some (n + 1) } } := by
    have htest : microStep t = pollTest o t := by simp only [microStep, hreads.pc]
    exact htest.trans (pollTest_again hv hn (hflag.trans hbusy) (atLimit_unbounded (hcfg ▸ hlimit) _))
  have hopen : CanOpen { t with work := { t.work with POLLS := some (n + 1) } } :=
    ⟨ht.fault, ht.valid, ht.fs, fun _ => Or.inr (Or.inl (hcfg ▸ hreads.frame))⟩
  exact ⟨_, Reaches.active ht.fault ht.line ht.active (hstep.trans (pollCs_ok hopen o)) (.refl _),
    rfl, hreads.standing, rfl, rfl, rfl, rfl, rfl, rfl⟩

/-- A cycle with `n` busy reads left is polled to its end. -/
theorem pollTx_completes {o : Operation} (n : Nat) {s : State} (h : Running s) (hlimit : s.cfg.POLL_LIMIT = none)
    (hpc : s.pc = .pollTx o) (hc : s.bus.CS = true) (hb : s.bus.FRAME = []) (hr : s.bus.FRAME_RD = .none)
    (hp : s.work.POLLS.isSome) (hbusy : s.flash.BUSY = true) (hleft : s.flash.LEFT = .reads n) :
    ∃ t, Reaches s t ∧ PollEnds o s t := by
  induction n generalizing s with
  | zero =>
    obtain ⟨t, hst, hreads⟩ := pollIteration_reads h hpc hc hb hr
    exact ⟨t, hst, hreads.ends hp hbusy hleft⟩
  | succ n ih =>
    obtain ⟨t, hst, hreads⟩ := pollIteration_reads h hpc hc hb hr
    have hflash := hreads.flash_busy hbusy hleft
    obtain ⟨u, htu, hupc, hstand, huc, hub, hur, hup, hdraws, huflash⟩ :=
      pollTest_reaches_pollTx h hlimit hreads hp (by rw [hflash]; exact hbusy)
    obtain ⟨hcfg, hlaunch, _⟩ := standing_fields hstand
    rw [hflash] at huflash
    obtain ⟨w, huw, hends⟩ := ih (h.of_standing hstand) (hcfg ▸ hlimit) hupc huc hub hur hup
      (by rw [huflash]; exact hbusy) (by rw [huflash])
    obtain ⟨r, hrcfg, hrlaunch, hrflash, hw⟩ := hends.flash
    refine ⟨w, hst.trans (htu.trans huw), hends.pc, hends.standing.trans hstand, hcfg ▸ hends.frame, hends.status,
      hends.polls, ?_, r, hrcfg.trans hcfg, hrlaunch.trans hlaunch, ?_, hw⟩
    · rw [hends.durations, hdraws, hreads.durations]
    · rw [hrflash, huflash]

/-- POLL from its start, over a cycle that is finite: rule R110. -/
theorem poll_completes {o : Operation} {n : Nat} {s : State} (h : Running s) (hlimit : s.cfg.POLL_LIMIT = none)
    (hpc : s.pc = .pollStart o) (hopen : OpenFrameEnds s) (hbusy : s.flash.BUSY = true)
    (hleft : s.flash.LEFT = .reads n) : ∃ t, Reaches s t ∧ PollEnds o s t := by
  have hstep : microStep s = pollBegin o s := by simp only [microStep, hpc]
  have hcs := pollCs_ok (s := setPhase .busy { s with work := { s.work with POLLS := some 0 } })
    ⟨h.fault, h.valid, h.fs, hopen⟩ o
  obtain ⟨t, hreach, hends⟩ := pollTx_completes n (o := o)
    (s := { setPhase .busy { s with work := { s.work with POLLS := some 0 } } with
      pc := .pollTx o
      bus := { s.bus with CS := true, FRAME := [], FRAME_RD := .none }
      TRACE := s.TRACE ++ [.csStart] })
    ⟨h.fault, h.line, h.active, h.valid, h.fs⟩ hlimit rfl rfl rfl rfl rfl hbusy hleft
  exact ⟨t, Reaches.active h.fault h.line h.active (hstep.trans hcs) hreach, { hends with }⟩

/-! ## ENABLE and the frame of SE, rules R106 and R114 -/

/-- ENABLE after its FS_SET(1): the latch is set, and nothing else of the flash changes. -/
theorem enable_reaches {s : State} {o : Operation} (h : Running s) (hpc : s.pc = .enCs o) (ho : OpenFrameEnds s)
    (hb : s.flash.BUSY = false) :
    ∃ t, Reaches s t ∧ t.pc = .frCs o ∧ standing t = standing s ∧ t.work = s.work ∧ t.draws = s.draws ∧
      t.bus.CS = false ∧ t.flash = { s.flash with WEL := true } := by
  have hcs : microStep s = enableCs o s := by simp only [microStep, hpc]
  refine ⟨_, Reaches.active h.fault h.line h.active (hcs.trans (enableCs_ok ⟨h.fault, h.valid, h.fs, ho⟩)) <|
    Reaches.active h.fault h.line h.active (enableTx_ok h.fault rfl rfl) <|
    Reaches.active h.fault h.line h.active (enableGo_ok h.fault h.valid rfl rfl rfl hb) (.refl _), ?_⟩
  exact ⟨rfl, rfl, rfl, rfl, rfl, rfl⟩

/-- CS_START of an operation's frame. -/
theorem frameCs_ok {s : State} {o : Operation} (h : CanOpen s) :
    frameCs o s = { s with
      pc := .frOp o
      bus := { s.bus with CS := true, FRAME := [], FRAME_RD := .none }
      TRACE := s.TRACE ++ [.csStart] } := by
  unfold frameCs
  rw [csStart_ok h, andThen_ok (by exact h.1)]
  rfl

/-- The opcode of a frame with an address. -/
theorem frameOp_ok {s : State} {o : Operation} (ho : o ≠ .unlock) (hf : s.FAULT = none) (hc : s.bus.CS = true)
    (hr : s.bus.FRAME_RD = .none) :
    frameOp o s = { s with
      pc := .frAddr o
      bus := { s.bus with FRAME := s.bus.FRAME ++ [s.cfg.opcode (operationCommand o)] }
      TRACE := s.TRACE ++ [.tx (s.cfg.opcode (operationCommand o))] } := by
  unfold frameOp
  rw [tx_ok hc hr, andThen_ok (by exact hf), if_neg ho]
  rfl

/-- The address of SE, which has no data bytes after it. -/
theorem frameAddress_sector_ok {s : State} {a : U32} (hf : s.FAULT = none) (hc : s.bus.CS = true)
    (hr : s.bus.FRAME_RD = .none) (ha : s.work.ADDR = some a) (hfit : fits24 a = true) :
    frameAddress .sector s = { s with
      pc := .frGo .sector
      PHASE := .issued
      bus := { s.bus with FRAME := s.bus.FRAME ++ addrBytes a }
      TRACE := s.TRACE ++ [.txAddr (a.extractLsb' 0 24)] } := by
  unfold frameAddress
  rw [ha, need_some, txAddr_ok hc hr hfit, andThen_ok (by exact hf)]
  rfl

/-- The effect of an SE frame on an existing sector, rule R100. -/
theorem frameEffect_se {s : State} {op : Byte} {a : U32} (hf : s.bus.FRAME = op :: addrBytes a)
    (hfit : fits24 a = true) (hal : a.toNat % s.launch.FLASH_SECTOR = 0)
    (hin : a.toNat + s.launch.FLASH_SECTOR ≤ s.launch.FLASH_SIZE) :
    frameEffect .se s = startCycle (.erase a.toNat s.launch.FLASH_SECTOR) s := by
  have haddr : frameAddr (op :: addrBytes a) = a.toNat := congrArg BitVec.toNat (addrOfBytes_addrBytes hfit)
  simp only [frameEffect, hf, haddr]
  rw [if_neg (by simp [addrBytes]), if_neg (not_not.mpr hal), if_neg (Nat.not_lt.mpr hin)]

/-- GO of an operation's frame that starts a cycle. -/
theorem frameGo_ok {s : State} {o : Operation} {p : Cycle} (hn : s.FAULT = none) (hc : s.bus.CS = true)
    (hf : frameEnd true s = startCycle p s) :
    frameGo o s = { s with
      pc := .pollStart o
      PHASE := .latched
      draws := (drewDuration s).draws
      flash := { s.flash with BUSY := true, PENDING := p, LEFT := nextDuration s }
      bus := { s.bus with CS := false }
      TRACE := s.TRACE ++ [.go] } := by
  unfold frameGo
  rw [go_starts hn hc hf, andThen_ok (by exact hn)]
  rfl

/-- The frame of SE on an existing sector of an enabled and unprotected flash starts the erase of the sector. -/
theorem sectorFrame_reaches {s : State} {a : U32} (h : Running s) (hpc : s.pc = .frCs .sector)
    (hc : s.bus.CS = false) (hflash : Enabled s) (hprot : s.flash.PROT = false) (ha : s.work.ADDR = some a)
    (hfit : fits24 a = true) (hal : a.toNat % s.launch.FLASH_SECTOR = 0)
    (hin : a.toNat + s.launch.FLASH_SECTOR ≤ s.launch.FLASH_SIZE) :
    ∃ t, Reaches s t ∧ t.pc = .pollStart .sector ∧ standing t = standing s ∧ t.bus.CS = false ∧
      t.draws.durations = s.draws.durations.tail ∧
      t.flash = { s.flash with
        BUSY := true, PENDING := .erase a.toNat s.launch.FLASH_SECTOR, LEFT := nextDuration s } := by
  obtain ⟨hidle, hwel⟩ := hflash
  have hcs : microStep s = frameCs .sector s := by simp only [microStep, hpc]
  have hopen : CanOpen s := ⟨h.fault, h.valid, h.fs, fun hopen => absurd (hc.symm.trans hopen) nofun⟩
  have hstarts : ∀ u : State, u.cfg = s.cfg → u.launch = s.launch → u.flash = s.flash → u.bus.FRAME_RD = .none →
      u.bus.FRAME = s.cfg.OP_SE :: addrBytes a →
      frameEnd true u = startCycle (.erase a.toNat s.launch.FLASH_SECTOR) u := by
    intro u hcfg hlaunch hf hrd hframe
    rw [frameEnd_mutating (k := .se) (hcfg ▸ h.valid) (hcfg ▸ hframe) hrd (hf ▸ hidle) (hf ▸ hwel)
      (fun _ => hf ▸ hprot) rfl, ← hlaunch]
    exact frameEffect_se hframe hfit (hlaunch ▸ hal) (hlaunch ▸ hin)
  refine ⟨_, Reaches.active h.fault h.line h.active (hcs.trans (frameCs_ok hopen)) <|
    Reaches.active h.fault h.line h.active (frameOp_ok nofun h.fault rfl rfl) <|
    Reaches.active h.fault h.line h.active (frameAddress_sector_ok h.fault rfl rfl ha hfit) <|
    Reaches.active h.fault h.line h.active (frameGo_ok h.fault rfl (hstarts _ rfl rfl rfl rfl rfl)) (.refl _), ?_⟩
  exact ⟨rfl, rfl, rfl, rfl, rfl⟩

/-! ## A sector's visit, rules R114 and R126 -/

/-- How the visit of the sector at `a` from `s` ends: POLL returns over an idle flash with the sector erased, and one
duration is drawn. -/
structure SectorErased (a : U32) (s t : State) : Prop where
  reaches : Reaches s t
  pc : t.pc = .pollTest .sector
  standing : standing t = standing s
  frame : t.bus.FRAME = [s.cfg.OP_RDSR]
  status : ∃ v, t.work.STATUS = some v ∧ busyFlag v = false
  polls : t.work.POLLS.isSome
  durations : t.draws.durations = s.draws.durations.tail
  idle : t.flash.BUSY = false
  prot : t.flash.PROT = s.flash.PROT
  array : t.flash.ARRAY = memErase s.flash.ARRAY a.toNat s.launch.FLASH_SECTOR

/-- POLL returns to ERASE: the index advances, and L_SEC follows in the same step. -/
theorem SectorErased.step {a : U32} {s t : State} {i : I32} (h : SectorErased a s t) (hi : t.work.SEC_I = some i) :
    ∃ polls, microStep t = eraseLoop { t with
      PHASE := .idle
      work := { t.work with POLLS := some polls, SEC_I := some (i + 1#32) } } := by
  obtain ⟨v, hstatus, hflag⟩ := h.status
  obtain ⟨polls, hpolls⟩ := Option.isSome_iff_exists.mp h.polls
  have htest : microStep t = pollTest .sector t := by simp only [microStep, h.pc]
  refine ⟨polls + 1, htest.trans ((pollTest_return hstatus hpolls hflag).trans ?_)⟩
  simp only [pollReturn, eraseNext, hi, need_some]

theorem complete_erase_flash {s : State} {a n : Nat} (h : s.flash.PENDING = .erase a n) :
    (complete s).flash = { s.flash with
      ARRAY := memErase s.flash.ARRAY a n, WEL := false, BUSY := false, PENDING := .none } := by
  simp [complete, cycleEffect, h]

theorem sectorVisit_erases {s : State} {a : U32} {n : Nat} (h : Running s) (hlimit : s.cfg.POLL_LIMIT = none)
    (hpc : s.pc = .enCs .sector) (ho : OpenFrameEnds s) (hb : s.flash.BUSY = false) (hprot : s.flash.PROT = false)
    (ha : s.work.ADDR = some a) (hfit : fits24 a = true) (hal : a.toNat % s.launch.FLASH_SECTOR = 0)
    (hin : a.toNat + s.launch.FLASH_SECTOR ≤ s.launch.FLASH_SIZE) (hfinite : nextDuration s = .reads n) :
    ∃ t, SectorErased a s t := by
  obtain ⟨t, hst, htpc, htstand, htwork, htdraws, htc, htflash⟩ := enable_reaches h hpc ho hb
  obtain ⟨htcfg, htlaunch, _⟩ := standing_fields htstand
  obtain ⟨u, htu, hupc, hustand, huc, hudur, huflash⟩ := sectorFrame_reaches (a := a) (h.of_standing htstand) htpc htc
    (by rw [Enabled, htflash]; exact ⟨hb, rfl⟩) (by rw [htflash]; exact hprot) (htwork ▸ ha) hfit
    (htlaunch ▸ hal) (htlaunch ▸ hin)
  have hsu := hustand.trans htstand
  obtain ⟨hucfg, hulaunch, _⟩ := standing_fields hsu
  have hdraw : nextDuration t = .reads n := by rw [nextDuration, htdraws]; exact hfinite
  rw [htflash, htlaunch, hdraw] at huflash
  obtain ⟨w, huw, hends⟩ := poll_completes (h.of_standing hsu) (hucfg ▸ hlimit) hupc
    (fun hopen => absurd (huc.symm.trans hopen) nofun) (by rw [huflash]) (by rw [huflash])
  obtain ⟨r, _, _, hr, hw⟩ := hends.flash
  rw [huflash] at hr
  rw [complete_erase_flash (by rw [hr]), hr] at hw
  exact ⟨w, hst.trans (htu.trans huw), hends.pc, hends.standing.trans hsu, hucfg ▸ hends.frame, hends.status,
    hends.polls, by rw [hends.durations, hudur, htdraws], by rw [hw], by rw [hw], by rw [hw]⟩

/-! ## The loop of ERASE, rule R126 -/

/-- The sectors up to `last` exist: what ProbeAgrees makes of an index below the sector count, rules R19 and R34. -/
structure SectorsExist (s : State) (last : I32) : Prop where
  size : sectorSize s = some s.launch.FLASH_SECTOR
  pos : 1 ≤ s.launch.FLASH_SECTOR
  inside : (last.toNat + 1) * s.launch.FLASH_SECTOR ≤ s.launch.FLASH_SIZE
  small : s.launch.FLASH_SIZE ≤ 2 ^ 24

theorem toInt_eq_toNat_of_nonneg {i : I32} (h : 0 ≤ i.toInt) : i.toInt = i.toNat := by
  rw [BitVec.toInt_eq_toNat_cond] at h ⊢
  split_ifs at h ⊢ <;> omega

theorem sectorsExist_of_agrees {s : State} {g : Geometry} {last : I32} (hl : s.launch.Valid) (hg : s.GEOM = some g)
    (hagrees : ProbeAgrees s.launch g) (h0 : 0 ≤ last.toInt) (hlast : last.toInt < g.sector_count.toNat) :
    SectorsExist s last := by
  obtain ⟨_, hsmall, ⟨k, hk⟩, _⟩ := hl
  obtain ⟨_, htotal, hproduct⟩ := hagrees
  have hindex : last.toNat + 1 ≤ g.sector_count.toNat := by
    rw [toInt_eq_toNat_of_nonneg h0] at hlast
    omega
  refine ⟨?_, hk ▸ Nat.one_le_two_pow, ?_, hsmall⟩
  · have hcount : 1 ≤ g.sector_count.toNat := by omega
    simp only [sectorSize, hg, hproduct, Nat.mul_mod_right, hcount, and_self, if_true]
    rw [Nat.mul_div_cancel_left _ hcount]
  · rw [← htotal, hproduct]
    exact Nat.mul_le_mul_right _ hindex

/-- An existing sector's index is a small number. -/
theorem SectorsExist.last_lt {s : State} {last : I32} (h : SectorsExist s last) : last.toNat + 1 ≤ 2 ^ 24 :=
  calc last.toNat + 1 ≤ (last.toNat + 1) * s.launch.FLASH_SECTOR := Nat.le_mul_of_pos_right _ h.pos
    _ ≤ 2 ^ 24 := h.inside.trans h.small

/-- An existing sector lies inside the array. -/
theorem SectorsExist.sector_end {s : State} {last : I32} (h : SectorsExist s last) {j : Nat} (hj : j ≤ last.toNat) :
    j * s.launch.FLASH_SECTOR + s.launch.FLASH_SECTOR ≤ s.launch.FLASH_SIZE :=
  calc j * s.launch.FLASH_SECTOR + s.launch.FLASH_SECTOR = (j + 1) * s.launch.FLASH_SECTOR := (Nat.succ_mul _ _).symm
    _ ≤ (last.toNat + 1) * s.launch.FLASH_SECTOR := Nat.mul_le_mul_right _ (Nat.succ_le_succ hj)
    _ ≤ s.launch.FLASH_SIZE := h.inside

/-- A small index is the same number signed. -/
theorem toInt_ofNat_index {j : Nat} (h : j ≤ 2 ^ 24) : (BitVec.ofNat 32 j).toInt = j := by
  have hnat : (BitVec.ofNat 32 j).toNat = j := by rw [BitVec.toNat_ofNat]; omega
  rw [BitVec.toInt_eq_toNat_of_lt (by omega), hnat]

theorem SectorsExist.last_toInt {s : State} {last : I32} (h : SectorsExist s last) : last.toInt = last.toNat := by
  have hlt := h.last_lt
  simpa using toInt_ofNat_index (j := last.toNat) (by omega)

/-- The flash after the sectors from `first` up to but not including `j` are erased from `s₀`. -/
abbrev ErasedBelow (s₀ : State) (first j : Nat) (f : Flash) : Prop :=
  f.BUSY = false ∧ f.PROT = false ∧ ∀ a : Nat, memRead f.ARRAY a =
    if first * s₀.launch.FLASH_SECTOR ≤ a ∧ a < j * s₀.launch.FLASH_SECTOR then 0xFF#8
    else memRead s₀.flash.ARRAY a

/-- One more sector erased. -/
theorem ErasedBelow.succ {s₀ : State} {first j : Nat} {f f' : Flash} (h : ErasedBelow s₀ first j f) (hj : first ≤ j)
    (hb : f'.BUSY = false) (hp : f'.PROT = f.PROT)
    (ha : f'.ARRAY = memErase f.ARRAY (j * s₀.launch.FLASH_SECTOR) s₀.launch.FLASH_SECTOR) :
    ErasedBelow s₀ first (j + 1) f' := by
  obtain ⟨_, hprot, harray⟩ := h
  refine ⟨hb, hp.trans hprot, fun a => ?_⟩
  have hle := Nat.mul_le_mul_right s₀.launch.FLASH_SECTOR hj
  have hsplit : (first * s₀.launch.FLASH_SECTOR ≤ a ∧ a < (j + 1) * s₀.launch.FLASH_SECTOR) ↔
      (j * s₀.launch.FLASH_SECTOR ≤ a ∧ a < j * s₀.launch.FLASH_SECTOR + s₀.launch.FLASH_SECTOR) ∨
      (first * s₀.launch.FLASH_SECTOR ≤ a ∧ a < j * s₀.launch.FLASH_SECTOR) := by
    rw [Nat.succ_mul]
    omega
  rw [ha, memRead_memErase, harray]
  by_cases hnew : j * s₀.launch.FLASH_SECTOR ≤ a ∧ a < j * s₀.launch.FLASH_SECTOR + s₀.launch.FLASH_SECTOR
  · rw [if_pos hnew, if_pos (hsplit.mpr (Or.inl hnew)), erasedByte]
  · simp only [hsplit, hnew, false_or, if_false]

/-- ERASE in progress at L_SEC with the sectors before index `j` erased, between the visits. -/
structure ErasedUpTo (s₀ : State) (first last : I32) (j : Nat) (s : State) : Prop where
  fault : s.FAULT = none
  line : s.RESET_LINE = none
  active : s.ACTIVE ≠ none
  cfg : s.cfg = s₀.cfg
  launch : s.launch = s₀.launch
  geom : s.GEOM = s₀.GEOM
  fs : first.toNat < j → s.bus.FS = true
  frame : OpenFrameEnds s
  index : s.work.SEC_I = some (BitVec.ofNat 32 j)
  secLast : s.work.SEC_LAST = some last
  started : first.toNat ≤ j
  completes : FlashCompletes (last.toNat + 1 - j) s.draws
  erased : ErasedBelow s₀ first.toNat j s.flash

/-- L_EDONE: ERASE ends with Ok, and FS is released where ERASE_RELEASES_FS says so (rules R126 and R128). -/
theorem eraseDone_ends {s₀ s : State} {first last : I32} (hv : s₀.cfg.Valid)
    (h : ErasedUpTo s₀ first last (last.toNat + 1) s) (hfirst : first.toNat ≤ last.toNat) :
    ∃ t, Reaches (eraseDone s) t ∧ Over .ok t ∧ t.flash = s.flash ∧ t.bus.FS = !s₀.cfg.ERASE_RELEASES_FS := by
  unfold eraseDone
  rw [h.cfg]
  cases hreleases : s₀.cfg.ERASE_RELEASES_FS with
  | true =>
    have hoff := fsSet_off h.fault (h.cfg ▸ hv) h.frame
    rw [if_pos rfl, hoff, andThen_ok (by exact h.fault)]
    refine ⟨_, Reaches.active h.fault h.line h.active rfl (.refl _), ⟨h.fault, rfl, rfl, ?_⟩, rfl, rfl⟩
    exact List.getLast?_concat
  | false =>
    rw [if_neg (by simp)]
    exact ⟨_, .refl _, ⟨h.fault, rfl, rfl, List.getLast?_concat⟩, rfl, h.fs (by omega)⟩

section
variable {s₀ : State} {first last : I32} (hv : s₀.cfg.Valid) (hlimit : s₀.cfg.POLL_LIMIT = none)
  (hsectors : SectorsExist s₀ last)
include hsectors

/-- L_SEC with a sector left: Progress, and the visit of sector `j` begins. -/
theorem eraseLoop_visits {j : Nat} {s : State} (h : ErasedUpTo s₀ first last j s) (hj : j ≤ last.toNat) :
    ∃ a : U32, a.toNat = j * s₀.launch.FLASH_SECTOR ∧ fits24 a = true ∧ eraseLoop s = { s with
      work := { s.work with ADDR := some a }
      pc := .enCs .sector
      bus := { s.bus with FS := true, SPI_FS_OTHER := 0#31 }
      TRACE := s.TRACE ++ [.progress (BitVec.ofNat 32 j)] ++ [.fsSet true] } := by
  have hlt := hsectors.last_lt
  have hindex := toInt_ofNat_index (j := j) (by omega)
  have hmore : pastLast (BitVec.ofNat 32 j) last = false := by
    rw [pastLast, hindex, hsectors.last_toInt]
    exact decide_eq_false (by omega)
  have hloop : eraseLoop s = eraseSector (BitVec.ofNat 32 j) (emit (.progress (BitVec.ofNat 32 j)) s) := by
    simp [eraseLoop, h.index, h.secLast, hmore]
  have hsize : sectorSize (emit (.progress (BitVec.ofNat 32 j)) s) = some s₀.launch.FLASH_SECTOR := by
    rw [← hsectors.size, sectorSize, sectorSize, emit_GEOM, h.geom]
  have haddr : sectorAddress (BitVec.ofNat 32 j) s₀.launch.FLASH_SECTOR = (j * s₀.launch.FLASH_SECTOR : Nat) := by
    rw [sectorAddress, hindex, Nat.cast_mul]
  have hend := hsectors.sector_end hj
  have hsmall := hsectors.small
  have hpos := hsectors.pos
  rcases eraseSector_cases (s := emit (.progress (BitVec.ofNat 32 j)) s) h.fault hsize (BitVec.ofNat 32 j) with
    ⟨hnone, _⟩ | ⟨a, hfit, hstep⟩
  · have hsome : fitSectorAddress (sectorAddress (BitVec.ofNat 32 j) s₀.launch.FLASH_SECTOR) =
        some (BitVec.ofNat 32 (j * s₀.launch.FLASH_SECTOR)) := by
      rw [haddr, fitSectorAddress_eq_some, BitVec.toNat_ofNat]
      omega
    exact absurd (hsome.symm.trans hnone) nofun
  · rw [haddr, fitSectorAddress_eq_some] at hfit
    exact ⟨a, by omega, decide_eq_true (by simp only [FLASH_ADDR_BITS]; omega), hloop.trans hstep⟩

include hv hlimit

/-- The visit of one sector, from L_SEC to L_SEC. -/
theorem eraseLoop_next {j : Nat} {s : State} (h : ErasedUpTo s₀ first last j s) (hj : j ≤ last.toNat) :
    ∃ t, ErasedUpTo s₀ first last (j + 1) t ∧ ∀ u, Reaches (eraseLoop t) u → Reaches (eraseLoop s) u := by
  obtain ⟨a, ha, hfit, hloop⟩ := eraseLoop_visits hsectors h hj
  have hleft : last.toNat + 1 - j = last.toNat + 1 - (j + 1) + 1 := by omega
  obtain ⟨n, rest, hdraws, hcompletes⟩ := FlashCompletes.next (hleft ▸ h.completes)
  obtain ⟨hidle, hprot, _⟩ := h.erased
  have hal : a.toNat % s.launch.FLASH_SECTOR = 0 := by rw [ha, h.launch, Nat.mul_mod_left]
  have hin : a.toNat + s.launch.FLASH_SECTOR ≤ s.launch.FLASH_SIZE := by
    rw [ha, h.launch]
    exact hsectors.sector_end hj
  obtain ⟨t, ht⟩ := sectorVisit_erases (a := a) (n := n) (s := { s with
      work := { s.work with ADDR := some a }
      pc := .enCs .sector
      bus := { s.bus with FS := true, SPI_FS_OTHER := 0#31 }
      TRACE := s.TRACE ++ [.progress (BitVec.ofNat 32 j)] ++ [.fsSet true] })
    ⟨h.fault, h.line, h.active, h.cfg ▸ hv, rfl⟩ (h.cfg ▸ hlimit) rfl h.frame hidle hprot rfl hfit hal hin
    (by simp [nextDuration, hdraws])
  obtain ⟨hcfg, hlaunch, hgeom, hactive, hfault, hline, hfs, hindex, hlast⟩ := standing_fields ht.standing
  obtain ⟨polls, hstep⟩ := ht.step (hindex.trans h.index)
  have harray := ht.array
  rw [ha, h.launch] at harray
  refine ⟨_, ?_, fun u hu => hloop ▸ ht.reaches.trans (.active (hfault.trans h.fault) (hline.trans h.line)
    (hactive ▸ h.active) hstep hu)⟩
  exact {
    fault := hfault.trans h.fault
    line := hline.trans h.line
    active := hactive ▸ h.active
    cfg := hcfg.trans h.cfg
    launch := hlaunch.trans h.launch
    geom := hgeom.trans h.geom
    fs := fun _ => hfs
    frame := fun _ => Or.inr (Or.inl (hcfg ▸ ht.frame))
    index := by rw [BitVec.ofNat_add]
    secLast := hlast.trans h.secLast
    started := Nat.le_succ_of_le h.started
    completes := hcompletes _ (by rw [ht.durations, hdraws]; rfl)
    erased := h.erased.succ h.started ht.idle ht.prot harray }

/-- L_SEC with `m` sectors left. -/
theorem eraseLoop_ends (hfirst : first.toNat ≤ last.toNat) (m : Nat) {j : Nat} {s : State}
    (h : ErasedUpTo s₀ first last j s) (hm : last.toNat + 1 = j + m) :
    ∃ t, Reaches (eraseLoop s) t ∧ Over .ok t ∧ ErasedBelow s₀ first.toNat (last.toNat + 1) t.flash ∧
      t.bus.FS = !s₀.cfg.ERASE_RELEASES_FS := by
  induction m generalizing j s with
  | zero =>
    obtain rfl : j = last.toNat + 1 := hm.symm
    have hlt := hsectors.last_lt
    have hpast : pastLast (BitVec.ofNat 32 (last.toNat + 1)) last = true := by
      rw [pastLast, toInt_ofNat_index hlt, hsectors.last_toInt]
      exact decide_eq_true (by omega)
    have hloop : eraseLoop s = eraseDone s := by simp only [eraseLoop, h.index, h.secLast, need_some, hpast, if_true]
    obtain ⟨t, hreaches, hover, hflash, hfs⟩ := eraseDone_ends hv h hfirst
    exact ⟨t, hloop ▸ hreaches, hover, hflash ▸ h.erased, hfs⟩
  | succ m ih =>
    obtain ⟨t, ht, hreaches⟩ := eraseLoop_next hv hlimit hsectors h (by omega)
    obtain ⟨u, hu, hrest⟩ := ih ht (by omega)
    exact ⟨u, hreaches u hu, hrest⟩

end

/-- ERASE at L_SEC for the first time: the request started, its range in the registers. -/
def eraseHead (first last : I32) (s : State) : State :=
  { startRequest (.erase first last) s with work := { Work.unset with SEC_I := some first, SEC_LAST := some last } }

theorem eraseStart_ok {s : State} (first last : I32) (h : s.INIT_DONE = true) :
    microStep (startRequest (.erase first last) s) = eraseLoop (eraseHead first last s) := by
  have hoperands : eraseOperands (startRequest (.erase first last) s) = some (first, last) := rfl
  show eraseBegin (startRequest (.erase first last) s) = _
  rw [eraseBegin, if_neg (by simp [h]), hoperands, need_some]
  exact congrArg eraseLoop rfl

/-- No sector is erased yet at the first L_SEC. -/
theorem eraseHead_erasedUpTo {s : State} {first last : I32} (hf : s.FAULT = none) (hr : s.RESET_LINE = none)
    (hopen : OpenFrameEnds s) (hb : s.flash.BUSY = false) (hp : s.flash.PROT = false)
    (hcompletes : FlashCompletes (last.toNat + 1 - first.toNat) s.draws) :
    ErasedUpTo s first last first.toNat (eraseHead first last s) where
  fault := hf
  line := hr
  active := nofun
  cfg := rfl
  launch := rfl
  geom := rfl
  fs h := absurd h (Nat.lt_irrefl _)
  frame := hopen
  index := by rw [BitVec.ofNat_toNat, BitVec.setWidth_eq]; rfl
  secLast := rfl
  started := le_rfl
  completes := hcompletes
  erased := ⟨hb, hp, fun _ => (if_neg fun ⟨hge, hlt⟩ => absurd hlt (Nat.not_lt.mpr hge)).symm⟩

/-- Settles O44: ERASE starts at L_SEC with no sector erased, and each visit erases the next one. -/
theorem eraseErasesTheRange : Obligations.EraseErasesTheRange := by
  intro s g first last ⟨hf, ha, hr⟩ _ hv hl hlimit hdone hg hagrees hopen hb hp h0 hle hlast hcompletes
  have hsectors := sectorsExist_of_agrees hl hg hagrees (h0.trans hle) hlast
  have hfirst : first.toInt = first.toNat := toInt_eq_toNat_of_nonneg h0
  rw [hfirst, hsectors.last_toInt] at hle hcompletes
  have hcount : ((last.toNat : Int) - first.toNat + 1).toNat = last.toNat + 1 - first.toNat := by omega
  have hhead := eraseHead_erasedUpTo hf hr hopen hb hp (hcount ▸ hcompletes)
  have hstart : exec (.erase first last) s = .next (startRequest (.erase first last) s) := by
    simp [exec, execErase, admitRequest, hf, ha, requestFits]
  obtain ⟨t, hreaches, hover, ⟨hidle, hprot, harray⟩, hfs⟩ :=
    eraseLoop_ends hv hlimit hsectors (by omega) (last.toNat + 1 - first.toNat) hhead (by omega)
  obtain ⟨k, hk⟩ := Reaches.active (s := startRequest (.erase first last) s) hf hr (by simp)
    (eraseStart_ok first last hdone) hreaches
  exact ⟨_, k, t, hstart, hk, hover, hidle, hprot, hfs, harray⟩

end Sys2Proof.Machine
end

section
/-! PROOFS. The flash's checks and cycles, status reads, and what the frames and the Host's window reads do:
spec/20_memory.md rules R58 to R66, spec/41_command_primitives.md rules R97 to R105. -/

namespace Sys2Proof.Machine

/-! ## Status reads, rule R63 -/

/-- A status read touches only the flash and the draws. -/
theorem statusRead_eq (s : State) :
    (statusRead s).2 = { s with draws := (statusRead s).2.draws, flash := (statusRead s).2.flash } := by
  rcases statusRead_cases s with ⟨_, _, e⟩ | ⟨_, _, e⟩ | ⟨_, e⟩
  · obtain ⟨m, p, d, hcomplete, _⟩ := complete_eq s
    rw [e, hcomplete]
    rfl
  · rw [e]; rfl
  · rw [e]; rfl

theorem complete_idle (s : State) : (complete s).flash.BUSY = false := by
  rw [complete, closeCycle_flash]

theorem statusRead_flash_due {s : State} (hb : s.flash.BUSY = true) (hl : s.flash.LEFT = .reads 0) :
    (statusRead s).2.flash = (complete s).flash := by
  rcases statusRead_cases s with ⟨_, _, e⟩ | ⟨_, hleft, _⟩ | ⟨hidle, _⟩
  · rw [e]; rfl
  · exact absurd hl hleft
  · exact absurd (hb.symm.trans hidle) nofun

theorem statusRead_flash_left {s : State} (hb : s.flash.BUSY = true) (hl : s.flash.LEFT ≠ .reads 0) :
    (statusRead s).2.flash = { s.flash with LEFT := countDown s.flash.LEFT } := by
  rcases statusRead_cases s with ⟨_, hleft, _⟩ | ⟨_, _, e⟩ | ⟨hidle, _⟩
  · exact absurd hleft hl
  · rw [e]
  · exact absurd (hb.symm.trans hidle) nofun

theorem statusRead_flash_reads {s : State} {n : Nat} (hb : s.flash.BUSY = true)
    (hl : s.flash.LEFT = .reads (n + 1)) : (statusRead s).2.flash = { s.flash with LEFT := .reads n } := by
  rw [statusRead_flash_left hb (by simp [hl]), hl]
  rfl

theorem statusRead_flash_forever {s : State} (hb : s.flash.BUSY = true) (hl : s.flash.LEFT = .forever) :
    (statusRead s).2.flash = s.flash := by
  rw [statusRead_flash_left hb (by simp [hl]), hl, countDown, ← hl]

theorem statusRead_flash_idle {s : State} (hb : s.flash.BUSY = false) : (statusRead s).2.flash = s.flash := by
  rcases statusRead_cases s with ⟨hbusy, _⟩ | ⟨hbusy, _⟩ | ⟨_, e⟩
  · exact absurd (hbusy.symm.trans hb) nofun
  · exact absurd (hbusy.symm.trans hb) nofun
  · rw [e]; rfl

/-- Settles O19: bit 0 is BUSY after the read, and the flash after the read is known in each of the four cases. -/
theorem statusReadCountsDown : Obligations.StatusReadCountsDown := by
  intro s
  have hbit : (statusRead s).1.getLsbD 0 = (statusRead s).2.flash.BUSY := busyFlag_statusRead s
  rw [hbit]
  refine ⟨fun hb hl => ?_, fun n hb hl => ?_, fun hb hl => ?_, fun hb => ?_⟩
  · rw [statusRead_flash_due hb hl]
    exact ⟨complete_idle s, rfl⟩
  · rw [statusRead_flash_reads hb hl]
    exact ⟨hb, rfl⟩
  · rw [statusRead_flash_forever hb hl]
    exact ⟨hb, rfl⟩
  · rw [statusRead_flash_idle hb]
    exact ⟨hb, rfl⟩

/-! ## The completion of a cycle, rules R60 and R61 -/

theorem complete_flash (s : State) :
    (complete s).flash = { (cycleEffect s.flash.PENDING s).flash with
      WEL := false, BUSY := false, PENDING := .none } := rfl

theorem cycleEffect_writeSR_array (v : Byte) (s : State) :
    (cycleEffect (.writeSR v) s).flash.ARRAY = s.flash.ARRAY := by
  by_cases hv : v = s.cfg.UNLOCK_SR_VALUE <;> simp [cycleEffect, hv]

theorem cycleEffect_unlock_prot (s : State) :
    (cycleEffect (.writeSR s.cfg.UNLOCK_SR_VALUE) s).flash.PROT = false := by
  simp [cycleEffect]

/-- Settles O18: one clause per kind of cycle, by the laws of `memErase` and `programAll`. -/
theorem completionActsOnTheArray : Obligations.CompletionActsOnTheArray := by
  intro s hwf
  rw [complete_flash]
  refine ⟨rfl, rfl, rfl, cycleEffect_memWf _ hwf, fun a n hp b => ?_, fun hp b => ?_,
    fun ws hp => ⟨fun b hb => ?_, fun hd x hx he => ?_⟩, fun v hp => ⟨?_, fun hv => ?_⟩,
    fun hp => cycleEffect_prot s hp⟩
  · rw [hp]
    exact memRead_memErase _ _ _ _
  · rw [hp]
    simpa [cycleEffect, erasedByte] using memRead_memErase s.flash.ARRAY 0 s.launch.FLASH_SIZE b
  · rw [hp]
    exact programAll_other ws s hwf b hb
  · rw [hp]
    exact programAll_target ws s hwf hd hx he
  · rw [hp]
    exact cycleEffect_writeSR_array v s
  · rw [hp, hv]
    exact cycleEffect_unlock_prot s

/-! ## The checks at a frame end, rules R58 and R142 -/

/-- For valid parameters an opcode is in a list of opcodes exactly when its command is in the list of commands. -/
theorem opcode_mem_map {c : Config} (hv : c.Valid) {k : Command} {ks : List Command} :
    c.opcode k ∈ ks.map c.opcode ↔ k ∈ ks :=
  List.mem_map_of_injective fun _ _ => opcode_injective hv

theorem opcode_inj {c : Config} (hv : c.Valid) {k l : Command} : c.opcode k = c.opcode l ↔ k = l :=
  ⟨opcode_injective hv, congrArg c.opcode⟩

theorem not_mem_opcodes {c : Config} {b : Byte} (h : commandOf c b = none) (ks : List Command) :
    b ∉ ks.map c.opcode := fun hb => by
  obtain ⟨k, _, hk⟩ := List.mem_map.mp hb
  exact commandOf_eq_none.mp h k hk

/-- The first check of rule R58. -/
theorem frameEnd_busy {s : State} {op : Byte} {rest : List Byte} (hf : s.bus.FRAME = op :: rest)
    (hb : s.flash.BUSY = true) (hop : op ≠ s.cfg.OP_RDSR) (latched : Bool) :
    frameEnd latched s = raise .commandWhileBusy s := by
  simp [frameEnd, hf, hb, hop]

/-- The second check of rule R58, rule R89. -/
theorem frameEnd_unknown {s : State} {op : Byte} {rest : List Byte} (hf : s.bus.FRAME = op :: rest)
    (hb : ¬ (s.flash.BUSY = true ∧ op ≠ s.cfg.OP_RDSR)) (hop : commandOf s.cfg op = none) (latched : Bool) :
    frameEnd latched s = raise .unknownOpcode s := by
  simp only [frameEnd, hf, if_neg hb, hop]

/-- A frame's command passes to the checks of that command. -/
theorem frameEnd_known {s : State} {op : Byte} {rest : List Byte} {k : Command} (hf : s.bus.FRAME = op :: rest)
    (hb : ¬ (s.flash.BUSY = true ∧ op ≠ s.cfg.OP_RDSR)) (hop : commandOf s.cfg op = some k) (latched : Bool) :
    frameEnd latched s = frameChecks k latched s := by
  simp only [frameEnd, hf, if_neg hb, hop]

section
variable {c : Config} (hv : c.Valid) (k : Command)
include hv

theorem needsLatch_iff :
    needsLatch k = true ↔ c.opcode k ∈ [c.OP_WREN, c.OP_SE, c.OP_PP, c.OP_CE, c.OP_WRSR] :=
  (by cases k <;> decide : needsLatch k = true ↔ k ∈ [.wren, .se, .pp, .ce, .wrsr]).trans (opcode_mem_map hv).symm

theorem needsEnable_iff : needsEnable k = true ↔ c.opcode k ∈ [c.OP_SE, c.OP_PP, c.OP_CE, c.OP_WRSR] :=
  (by cases k <;> decide : needsEnable k = true ↔ k ∈ [.se, .pp, .ce, .wrsr]).trans (opcode_mem_map hv).symm

theorem needsUnlocked_iff : needsUnlocked k = true ↔ c.opcode k ∈ [c.OP_SE, c.OP_PP, c.OP_CE] :=
  (by cases k <;> decide : needsUnlocked k = true ↔ k ∈ [.se, .pp, .ce]).trans (opcode_mem_map hv).symm

theorem isRead_iff : isRead k = true ↔ c.opcode k ∈ [c.OP_RDID, c.OP_RDSR] :=
  (by cases k <;> decide : isRead k = true ↔ k ∈ [.rdid, .rdsr]).trans (opcode_mem_map hv).symm

end

/-- The effect of a command, found by comparing its opcode with those of the commands that have one. -/
theorem frameEffect_opcode {s : State} (hv : s.cfg.Valid) (k : Command) : frameEffect k s =
    if s.cfg.opcode k = s.cfg.OP_WREN then frameEffect .wren s
    else if s.cfg.opcode k = s.cfg.OP_SE then frameEffect .se s
    else if s.cfg.opcode k = s.cfg.OP_PP then frameEffect .pp s
    else if s.cfg.opcode k = s.cfg.OP_CE then frameEffect .ce s
    else if s.cfg.opcode k = s.cfg.OP_WRSR then frameEffect .wrsr s
    else s := by
  have hwren : s.cfg.opcode k = s.cfg.OP_WREN ↔ k = .wren := opcode_inj hv (l := .wren)
  have hse : s.cfg.opcode k = s.cfg.OP_SE ↔ k = .se := opcode_inj hv (l := .se)
  have hpp : s.cfg.opcode k = s.cfg.OP_PP ↔ k = .pp := opcode_inj hv (l := .pp)
  have hce : s.cfg.opcode k = s.cfg.OP_CE ↔ k = .ce := opcode_inj hv (l := .ce)
  have hwrsr : s.cfg.opcode k = s.cfg.OP_WRSR ↔ k = .wrsr := opcode_inj hv (l := .wrsr)
  simp only [hwren, hse, hpp, hce, hwrsr]
  cases k <;> rfl

/-- Settles O17: the first byte is no opcode, or the opcode of one command, whose checks and effect follow. -/
theorem frameEndChecksInOrder : Obligations.FrameEndChecksInOrder := by
  intro s op rest latched hv hf
  by_cases hb : s.flash.BUSY = true ∧ op ≠ s.cfg.OP_RDSR
  · rw [if_pos hb, frameEnd_busy hf hb.1 hb.2]
  rw [if_neg hb]
  cases hop : commandOf s.cfg op with
  | none =>
    have hnone := not_mem_opcodes hop Command.all
    rw [frameEnd_unknown hf hb hop]
    exact (if_pos hnone).symm
  | some k =>
    rw [frameEnd_known hf hb hop]
    obtain rfl := opcode_of_commandOf hop
    have hall : s.cfg.opcode k ∈ Command.all.map s.cfg.opcode := (opcode_mem_map hv).mpr (command_mem_all k)
    refine Eq.trans ?_ (if_neg (not_not.mpr hall)).symm
    simp only [frameChecks, ← Bool.not_eq_true (isRead k), needsLatch_iff hv, needsEnable_iff hv,
      needsUnlocked_iff hv, isRead_iff hv]
    rw [← frameEffect_opcode hv]

/-! ## Frames sent up to their GO -/

/-- The state with an open frame that holds `bytes` and has no read window, after `events`. -/
def sentFrame (bytes : List Byte) (events : List Event) (s : State) : State :=
  { s with
    bus := { s.bus with CS := true, FRAME := bytes, FRAME_RD := .none }
    TRACE := s.TRACE ++ events }

theorem tx_sends (bytes : List Byte) (b : Byte) (events : List Event) (s : State) :
    tx b (sentFrame bytes events s) = sentFrame (bytes ++ [b]) (events ++ [.tx b]) s := by
  rw [tx_ok (s := sentFrame bytes events s) rfl rfl]
  simp [sentFrame, emit]

section
variable {s : State} (h : CanOpen s)
include h

theorem sentFrame_andThen (bytes : List Byte) (events : List Event) (f : State → State) :
    (sentFrame bytes events s).andThen f = f (sentFrame bytes events s) :=
  andThen_ok (s := sentFrame bytes events s) h.1 f

theorem csStart_sends : csStart s = sentFrame [] [.csStart] s := csStart_ok h

theorem issue_sends (op : Byte) : issue op s = sentFrame [op] [.csStart, .tx op] s := issue_ok h op

theorem issueAddr_sends (op : Byte) {a : U32} (ha : a.toNat < 2 ^ 24) : issueAddr op a s =
    sentFrame (op :: addrBytes a) [.csStart, .tx op, .txAddr (BitVec.ofNat 24 a.toNat)] s :=
  issueAddr_ok h op (decide_eq_true ha)

theorem txAll_sends (bytes ds : List Byte) (events : List Event) :
    txAll ds (sentFrame bytes events s) = sentFrame (bytes ++ ds) (events ++ ds.map .tx) s := by
  rw [txAll_ok ds (s := sentFrame bytes events s) h.1 rfl rfl]
  simp [sentFrame]

theorem sendRaw_eq (bytes : List Byte) :
    sendRaw bytes s = go (sentFrame bytes (.csStart :: bytes.map .tx) s) := by
  rw [sendRaw, csStart_sends h, sentFrame_andThen h, txAll_sends h, sentFrame_andThen h]
  rfl

theorem exec_wren_eq :
    exec .wren s = .next (go (sentFrame [s.cfg.OP_WREN] [.csStart, .tx s.cfg.OP_WREN] s)) := by
  rw [exec, execWren, runs_ok h.1, issue_sends h, sentFrame_andThen h]

theorem exec_ce_eq : exec .ce s = .next (go (sentFrame [s.cfg.OP_CE] [.csStart, .tx s.cfg.OP_CE] s)) := by
  rw [exec, execCe, runs_ok h.1, issue_sends h, sentFrame_andThen h]

theorem exec_wrsr_eq (v : Byte) :
    exec (.wrsr v) s = .next (go (sentFrame [s.cfg.OP_WRSR, v] [.csStart, .tx s.cfg.OP_WRSR, .tx v] s)) := by
  rw [exec, execWrsr, runs_ok h.1, issue_sends h, sentFrame_andThen h, tx_sends, sentFrame_andThen h]
  rfl

theorem exec_se_eq {a : U32} (ha : a.toNat < 2 ^ 24) :
    exec (.se a) s = .next (go (sentFrame (s.cfg.OP_SE :: addrBytes a)
      [.csStart, .tx s.cfg.OP_SE, .txAddr (BitVec.ofNat 24 a.toNat)] s)) := by
  rw [exec, execSe, runs_ok h.1, issueAddr_sends h _ ha, sentFrame_andThen h]

theorem exec_pp_eq {a : U32} (ha : a.toNat < 2 ^ 24) (ds : List Byte) :
    exec (.pp a ds) s = .next (go (sentFrame (s.cfg.OP_PP :: (addrBytes a ++ ds))
      ([.csStart, .tx s.cfg.OP_PP, .txAddr (BitVec.ofNat 24 a.toNat)] ++ ds.map .tx) s)) := by
  rw [exec, execPp, runs_ok h.1, issueAddr_sends h _ ha, sentFrame_andThen h, txAll_sends h, sentFrame_andThen h]
  rfl

/-- An address that does not fit stops ISSUE_ADDR after the opcode, rules R77 and R96. -/
theorem issueAddr_overflow (op : Byte) {a : U32} (ha : 2 ^ 24 ≤ a.toNat) :
    issueAddr op a s = raise .addrOverflow (sentFrame [op] [.csStart, .tx op] s) := by
  have hfit : fits24 a = false := decide_eq_false (Nat.not_lt.mpr ha)
  rw [issueAddr, issue_sends h, sentFrame_andThen h, txAddr, if_pos hfit]

theorem exec_se_overflow {a : U32} (ha : 2 ^ 24 ≤ a.toNat) : exec (.se a) s =
    .next (raise .addrOverflow (sentFrame [s.cfg.OP_SE] [.csStart, .tx s.cfg.OP_SE] s)) := by
  rw [exec, execSe, runs_ok h.1, issueAddr_overflow h _ ha, andThen_raise]

theorem exec_pp_overflow {a : U32} (ha : 2 ^ 24 ≤ a.toNat) (ds : List Byte) : exec (.pp a ds) s =
    .next (raise .addrOverflow (sentFrame [s.cfg.OP_PP] [.csStart, .tx s.cfg.OP_PP] s)) := by
  rw [exec, execPp, runs_ok h.1, issueAddr_overflow h _ ha, andThen_raise, andThen_raise]

/-! ## Frames that start a cycle, rule R59 -/

/-- GO on an accepted mutating frame whose effect is to start the cycle `p`. -/
theorem go_sentFrame_starts {k : Command} {rest : List Byte} {events : List Event} {p : Cycle}
    (hb : s.flash.BUSY = false) (hw : s.flash.WEL = true) (hp : needsUnlocked k = true → s.flash.PROT = false)
    (hk : isRead k = false)
    (he : frameEffect k (sentFrame (s.cfg.opcode k :: rest) events s) =
      startCycle p (sentFrame (s.cfg.opcode k :: rest) events s)) :
    go (sentFrame (s.cfg.opcode k :: rest) events s) =
      startedFrame p (s.cfg.opcode k :: rest) (events ++ [.go]) s := by
  have hend := frameEnd_mutating (s := sentFrame (s.cfg.opcode k :: rest) events s) (k := k) h.2.1 rfl rfl hb hw hp hk
  have hgo := go_starts (s := sentFrame (s.cfg.opcode k :: rest) events s) h.1 rfl (hend.trans he)
  rw [hgo, startedFrame, ← List.append_assoc]
  rfl

end

/-- Settles O26. -/
theorem ceStartsAChipErase : Obligations.CeStartsAChipErase := by
  intro s h hb hw hp
  rw [exec_ce_eq h]
  exact congrArg _ (go_sentFrame_starts (k := .ce) h hb hw (fun _ => hp) rfl rfl)

/-- Settles O27: the check of PROT does not apply to WRSR. -/
theorem wrsrStartsAStatusWrite : Obligations.WrsrStartsAStatusWrite := by
  intro s v h hb hw
  rw [exec_wrsr_eq h]
  exact congrArg _ (go_sentFrame_starts (k := .wrsr) h hb hw nofun rfl rfl)

/-- Settles O24: an aligned address in range passes the checks of SE. -/
theorem seStartsAnErase : Obligations.SeStartsAnErase := by
  intro s a h hb hw hp ha hal hin
  rw [exec_se_eq h ha]
  exact congrArg _ (go_sentFrame_starts (k := .se) h hb hw (fun _ => hp) rfl
    (frameEffect_se rfl (decide_eq_true ha) hal hin))

/-- The pairs of a PP frame, one for each data byte. -/
theorem programCells_eq_mapIdx (p a k : Nat) (ds : List Byte) :
    programCells p a k ds = ds.mapIdx fun i d => (pageTarget p a (k + i), d) := by
  induction ds generalizing k with
  | nil => rfl
  | cons d ds ih => simp [programCells, ih, Nat.add_assoc, Nat.add_comm 1]

/-- The effect of a PP frame that carries a fitting number of bytes, with every target inside the flash, rule R101. -/
theorem frameEffect_pp {s : State} {op : Byte} {a : U32} {ds : List Byte} (hf : s.bus.FRAME = op :: (addrBytes a ++ ds))
    (hfit : fits24 a = true) (hd : dataFits s.cfg ds = true)
    (hin : ∀ x ∈ programCells s.cfg.PAGE_SIZE a.toNat 0 ds, x.1 < s.launch.FLASH_SIZE) :
    frameEffect .pp s = startCycle (.program (programCells s.cfg.PAGE_SIZE a.toNat 0 ds)) s := by
  have haddr : frameAddr (op :: (addrBytes a ++ ds)) = a.toNat := congrArg BitVec.toNat (addrOfBytes_addrBytes hfit)
  have hdrop : (op :: (addrBytes a ++ ds)).drop 4 = ds := rfl
  obtain ⟨hlen, _⟩ := of_decide_eq_true hd
  simp only [frameEffect, hf, haddr, hdrop]
  rw [if_neg (by simp [hd, addrBytes]; omega), if_neg (by simpa using hin)]

/-- Settles O25: the checks of PP hold of each page target. -/
theorem ppStartsAProgram : Obligations.PpStartsAProgram := by
  intro s a ds h hb hw hp ha h1 hlen hone hin
  have hd : dataFits s.cfg ds = true := decide_eq_true ⟨h1, hlen, hone⟩
  have htargets : ∀ x ∈ programCells s.cfg.PAGE_SIZE a.toNat 0 ds, x.1 < s.launch.FLASH_SIZE := by
    intro x hx
    rw [programCells_eq_mapIdx] at hx
    obtain ⟨i, hi, rfl⟩ := List.mem_mapIdx.mp hx
    simpa using hin i hi
  rw [exec_pp_eq h ha]
  exact congrArg _ (go_sentFrame_starts (k := .pp) h hb hw (fun _ => hp) rfl
    (frameEffect_pp rfl (decide_eq_true ha) hd htargets))

/-! ## RDSR, rule R99 -/

/-- The state after the opcode of a read command and DELAY. -/
def readOpened (op : Byte) (s : State) : State :=
  { s with
    bus := { s.bus with CS := true, FRAME := [op], FRAME_RD := .opened }
    TRACE := s.TRACE ++ [.csStart, .tx op, .delay] }

theorem issue_delay {s : State} (h : CanOpen s) (op : Byte) : (issue op s).andThen delay = readOpened op s := by
  rw [issue_sends h, sentFrame_andThen h, delay_ok rfl rfl]
  simp [sentFrame, readOpened, emit]

theorem complete_readOpened_flash (op : Byte) (s : State) :
    (complete (readOpened op s)).flash = (complete s).flash := by
  rw [readOpened, complete_bus]

/-- RDSR keeps the byte that RX reads after DELAY. -/
theorem exec_rdsr_eq {s : State} (h : CanOpen s) :
    exec .rdsr s = .next { s with
      draws := (statusRead (readOpened s.cfg.OP_RDSR s)).2.draws
      flash := (statusRead (readOpened s.cfg.OP_RDSR s)).2.flash
      work := { s.work with STATUS := some (statusRead (readOpened s.cfg.OP_RDSR s)).1 }
      bus := { s.bus with
        CS := true, FRAME := [s.cfg.OP_RDSR], FRAME_RD := .done, RESP := [(statusRead (readOpened s.cfg.OP_RDSR s)).1] }
      TRACE := s.TRACE ++ [.csStart, .tx s.cfg.OP_RDSR, .delay, .rx (statusRead (readOpened s.cfg.OP_RDSR s)).1] } := by
  have hrx := rx_ok (s := readOpened s.cfg.OP_RDSR s) rfl rfl rfl setStatus
  rw [statusRead_eq] at hrx
  rw [exec, execRdsr, runs_ok h.1, issue_delay h, andThen_ok (s := readOpened s.cfg.OP_RDSR s) h.1, hrx]
  simp [setStatus, emit, fetched, readOpened]

/-- Settles O23: RX reads the status in the state DELAY leaves, whose flash is that of `s`. -/
theorem rdsrReadsTheStatus : Obligations.RdsrReadsTheStatus := by
  intro s h
  exact ⟨_, _, _, busyFlag_statusRead (readOpened s.cfg.OP_RDSR s),
    fun hb => statusRead_flash_idle (s := readOpened s.cfg.OP_RDSR s) hb,
    fun hb hl => (statusRead_flash_due (s := readOpened s.cfg.OP_RDSR s) hb hl).trans (complete_readOpened_flash _ s),
    fun n hb hl => statusRead_flash_reads (s := readOpened s.cfg.OP_RDSR s) hb hl,
    fun hb hl => statusRead_flash_forever (s := readOpened s.cfg.OP_RDSR s) hb hl, exec_rdsr_eq h⟩

/-! ## Frames that the flash refuses, rules R58 and R142 -/

theorem go_sentFrame_faults {bytes : List Byte} {events : List Event} {x : Fault} {s : State}
    (he : frameEnd true (sentFrame bytes events s) = raise x (sentFrame bytes events s)) :
    go (sentFrame bytes events s) = raise x (sentFrame bytes events s) :=
  go_fault rfl he

/-- `exec i` sends a frame of the command `k` and ends it with GO. -/
def Sends (k : Command) (i : Instr) (s : State) : Prop :=
  ∃ rest events, exec i s = .next (go (sentFrame (s.cfg.opcode k :: rest) events s)) ∧ Event.go ∉ events

section
variable {s : State} (h : CanOpen s)
include h

theorem wren_sends : Sends .wren .wren s := ⟨_, _, exec_wren_eq h, by simp⟩

theorem ce_sends : Sends .ce .ce s := ⟨_, _, exec_ce_eq h, by simp⟩

theorem wrsr_sends (v : Byte) : Sends .wrsr (.wrsr v) s := ⟨_, _, exec_wrsr_eq h v, by simp⟩

theorem se_sends {a : U32} (ha : a.toNat < 2 ^ 24) : Sends .se (.se a) s := ⟨_, _, exec_se_eq h ha, by simp⟩

theorem pp_sends {a : U32} (ha : a.toNat < 2 ^ 24) (ds : List Byte) : Sends .pp (.pp a ds) s :=
  ⟨_, _, exec_pp_eq h ha ds, by simp⟩

end

/-- A frame that the flash refuses: the fault is recorded, the flash is as before, and GO's event is not emitted. -/
theorem Sends.faults {k : Command} {i : Instr} {s : State} {x : Fault} (h : Sends k i s)
    (hx : ∀ (u : State) (rest : List Byte), u.cfg = s.cfg → u.flash = s.flash →
      u.bus.FRAME = u.cfg.opcode k :: rest → frameEnd true u = raise x u) :
    ∃ t, exec i s = .next t ∧ t.FAULT = some x ∧ t.flash = s.flash ∧ .go ∉ t.TRACE.drop s.TRACE.length := by
  obtain ⟨rest, events, hexec, hgo⟩ := h
  rw [go_sentFrame_faults (hx (sentFrame (s.cfg.opcode k :: rest) events s) rest rfl rfl rfl)] at hexec
  exact ⟨_, hexec, rfl, rfl, by simpa [sentFrame] using hgo⟩

theorem frameChecks_noWriteEnable {k : Command} {s : State} (hk : needsEnable k = true) (hw : s.flash.WEL = false) :
    frameChecks k true s = raise .noWriteEnable s := by
  simp [frameChecks, hk, hw]

theorem frameChecks_protected {k : Command} {s : State} (hk : needsUnlocked k = true) (hw : s.flash.WEL = true)
    (hp : s.flash.PROT = true) : frameChecks k true s = raise .protectedArray s := by
  simp [frameChecks, hk, hw, hp]

/-- Settles O28: the frame passes the earlier checks of rule R58 and meets the fault. -/
theorem mutatingFramesNeedLatchAndUnlock : Obligations.MutatingFramesNeedLatchAndUnlock := by
  intro s h hb
  refine ⟨fun i hi hw => ?_, fun i hi hw hp => ?_⟩
  · obtain ⟨k, hk, hsends⟩ : ∃ k, needsEnable k = true ∧ Sends k i s := by
      rcases hi with rfl | ⟨v, rfl⟩ | ⟨a, rfl, ha⟩ | ⟨a, ds, rfl, ha⟩
      · exact ⟨.ce, rfl, ce_sends h⟩
      · exact ⟨.wrsr, rfl, wrsr_sends h v⟩
      · exact ⟨.se, rfl, se_sends h ha⟩
      · exact ⟨.pp, rfl, pp_sends h ha ds⟩
    refine hsends.faults fun u rest hcfg hflash hframe => ?_
    rw [frameEnd_opcode (hcfg ▸ h.2.1) hframe (Or.inl (hflash ▸ hb)), frameChecks_noWriteEnable hk (hflash ▸ hw)]
  · obtain ⟨k, hk, hsends⟩ : ∃ k, needsUnlocked k = true ∧ Sends k i s := by
      rcases hi with rfl | ⟨a, rfl, ha⟩ | ⟨a, ds, rfl, ha⟩
      · exact ⟨.ce, rfl, ce_sends h⟩
      · exact ⟨.se, rfl, se_sends h ha⟩
      · exact ⟨.pp, rfl, pp_sends h ha ds⟩
    refine hsends.faults fun u rest hcfg hflash hframe => ?_
    rw [frameEnd_opcode (hcfg ▸ h.2.1) hframe (Or.inl (hflash ▸ hb)),
      frameChecks_protected hk (hflash ▸ hw) (hflash ▸ hp)]

/-! ## Frames outside bit-bang mode and at a busy flash -/

theorem csStart_notCommandMode {s : State} (hs : s.bus.FS = false) : csStart s = raise .notCommandMode s := by
  rw [csStart, if_pos hs]

/-- Outside bit-bang mode no frame gets past its CS_START, rule R75. -/
theorem exec_frame_notCommandMode {s : State} {i : Instr} (hi : i.level = .frame) (hf : s.FAULT = none)
    (hs : s.bus.FS = false) : exec i s = .next (raise .notCommandMode s) := by
  have hissue : ∀ op, issue op s = raise .notCommandMode s := fun op => by
    rw [issue, csStart_notCommandMode hs, andThen_raise]
  have haddr : ∀ op a, issueAddr op a s = raise .notCommandMode s := fun op a => by
    rw [issueAddr, hissue, andThen_raise]
  cases i with
  | rdid => rw [exec, execRdid, runs_ok hf, hissue]; rfl
  | wren => rw [exec, execWren, runs_ok hf, hissue]; rfl
  | rdsr => rw [exec, execRdsr, runs_ok hf, hissue]; rfl
  | se a => rw [exec, execSe, runs_ok hf, haddr]; rfl
  | pp a ds => rw [exec, execPp, runs_ok hf, haddr]; rfl
  | ce => rw [exec, execCe, runs_ok hf, hissue]; rfl
  | wrsr v => rw [exec, execWrsr, runs_ok hf, hissue]; rfl
  | init => cases hi
  | erase first last => cases hi
  | write dest data => cases hi

/-- RX_ID at a busy flash, rule R80. -/
theorem rxId_busy {s : State} (hc : s.bus.CS = true) (hf : s.bus.FRAME = [s.cfg.OP_RDID])
    (hr : s.bus.FRAME_RD = .opened) (hb : s.flash.BUSY = true) (k : List Byte → State → State) :
    rxId k s = raise .commandWhileBusy s := by
  simp [rxId, canFetch, hc, hf, hr, hb]

theorem exec_rdid_busy {s : State} (h : CanOpen s) (hb : s.flash.BUSY = true) :
    exec .rdid s = .next (raise .commandWhileBusy (readOpened s.cfg.OP_RDID s)) := by
  have hrx := rxId_busy (s := readOpened s.cfg.OP_RDID s) rfl rfl rfl hb setId
  rw [exec, execRdid, runs_ok h.1, issue_delay h, andThen_ok (s := readOpened s.cfg.OP_RDID s) h.1, hrx, andThen_raise]

/-- A frame of any command but RDSR that is sent to a busy flash, rule R58. -/
theorem Sends.busy {k : Command} {i : Instr} {s : State} (h : Sends k i s) (hv : s.cfg.Valid)
    (hb : s.flash.BUSY = true) (hk : k ≠ .rdsr) :
    ∃ t, exec i s = .next t ∧ t.flash = s.flash ∧ t.FAULT = some .commandWhileBusy := by
  obtain ⟨t, hexec, hfault, hflash, _⟩ := h.faults (x := .commandWhileBusy) fun u rest hcfg hf hframe =>
    frameEnd_busy hframe (hf ▸ hb) (fun hop => hk (opcode_injective (hcfg ▸ hv) (l := .rdsr) hop)) true
  exact ⟨t, hexec, hflash, hfault⟩

/-- Every frame but RDSR that gets past its address meets a busy flash, RDID at RX_ID and the others at GO. -/
theorem exec_frame_busy {s : State} {i : Instr} (h : CanOpen s) (hb : s.flash.BUSY = true) (hi : i.level = .frame)
    (hne : i ≠ .rdsr) (hse : ∀ a, i = .se a → a.toNat < 2 ^ 24) (hpp : ∀ a ds, i = .pp a ds → a.toNat < 2 ^ 24) :
    ∃ t, exec i s = .next t ∧ t.flash = s.flash ∧ t.FAULT = some .commandWhileBusy := by
  have hv : s.cfg.Valid := h.2.1
  cases i with
  | rdid => exact ⟨_, exec_rdid_busy h hb, rfl, rfl⟩
  | wren => exact (wren_sends h).busy hv hb nofun
  | rdsr => exact absurd rfl hne
  | se a => exact (se_sends h (hse a rfl)).busy hv hb nofun
  | pp a ds => exact (pp_sends h (hpp a ds rfl) ds).busy hv hb nofun
  | ce => exact (ce_sends h).busy hv hb nofun
  | wrsr v => exact (wrsr_sends h v).busy hv hb nofun
  | init => cases hi
  | erase first last => cases hi
  | write dest data => cases hi

/-- An address that does not fit: TX_ADDR faults before the flash sees the frame, rule R77. -/
theorem exec_frame_overflow {s : State} {i : Instr} (h : CanOpen s)
    (ha : (∃ a, i = .se a ∧ 2 ^ 24 ≤ a.toNat) ∨ ∃ a ds, i = .pp a ds ∧ 2 ^ 24 ≤ a.toNat) :
    ∃ t, exec i s = .next t ∧ t.flash = s.flash ∧ t.FAULT = some .addrOverflow := by
  rcases ha with ⟨a, rfl, hge⟩ | ⟨a, ds, rfl, hge⟩
  · exact ⟨_, exec_se_overflow h hge, rfl, rfl⟩
  · exact ⟨_, exec_pp_overflow h hge ds, rfl, rfl⟩

/-- Settles O30: a frame whose address does not fit meets AddrOverflow, every other one but RDSR the busy flash. -/
theorem framesNeedModeAndIdleFlash : Obligations.FramesNeedModeAndIdleFlash := by
  intro s i hi
  refine ⟨fun hf hs => exec_frame_notCommandMode hi hf hs, fun h hb hne => ?_⟩
  by_cases hover : (∃ a, i = .se a ∧ 2 ^ 24 ≤ a.toNat) ∨ ∃ a ds, i = .pp a ds ∧ 2 ^ 24 ≤ a.toNat
  · obtain ⟨t, hexec, hflash, hfault⟩ := exec_frame_overflow h hover
    refine ⟨t, hexec, hflash, fun hse hpp => ?_, fun _ => hfault⟩
    rcases hover with ⟨a, ha, hge⟩ | ⟨a, ds, ha, hge⟩
    · exact absurd (hse a ha) (Nat.not_lt.mpr hge)
    · exact absurd (hpp a ds ha) (Nat.not_lt.mpr hge)
  · obtain ⟨t, hexec, hflash, hfault⟩ := exec_frame_busy h hb hi hne
      (fun a ha => Nat.not_le.mp fun hge => hover (Or.inl ⟨a, ha, hge⟩))
      (fun a ds ha => Nat.not_le.mp fun hge => hover (Or.inr ⟨a, ds, ha, hge⟩))
    exact ⟨t, hexec, hflash, fun _ _ => hfault, fun hov => absurd hov hover⟩

/-! ## Bytes that are no frame, rules R89, R104 and R116 -/

/-- The operand bytes fit the format of the command, rules R85 and R116. -/
def operandsFit (c : Config) (k : Command) (rest : List Byte) : Prop :=
  match k with
  | .rdid => rest.length = 0
  | .wren => rest.length = 0
  | .rdsr => rest.length = 0
  | .se => rest.length = 3
  | .pp => 3 ≤ rest.length ∧ dataFits c (rest.drop 3) = true
  | .ce => rest.length = 0
  | .wrsr => rest.length = 1

theorem decodeOperands_of_fit {c : Config} {k : Command} {rest : List Byte} (h : operandsFit c k rest) :
    ∃ i, decodeOperands c k rest = .ok i := by
  cases k with
  | rdid => obtain rfl := List.length_eq_zero_iff.mp h; exact ⟨_, rfl⟩
  | wren => obtain rfl := List.length_eq_zero_iff.mp h; exact ⟨_, rfl⟩
  | rdsr => obtain rfl := List.length_eq_zero_iff.mp h; exact ⟨_, rfl⟩
  | ce => obtain rfl := List.length_eq_zero_iff.mp h; exact ⟨_, rfl⟩
  | se => obtain ⟨b1, b2, b3, rfl⟩ := List.length_eq_three.mp h; exact ⟨_, rfl⟩
  | wrsr => obtain ⟨v, rfl⟩ := List.length_eq_one_iff.mp h; exact ⟨_, rfl⟩
  | pp =>
    obtain ⟨hlen, hd⟩ := h
    match rest with
    | b1 :: b2 :: b3 :: ds => exact ⟨.pp (addrOfBytes b1 b2 b3) ds, if_pos hd⟩

/-- The only error in a frame of a known command. -/
theorem decodeOperands_error {c : Config} {k : Command} {rest : List Byte} {e : DecodeError}
    (h : decodeOperands c k rest = .error e) : e = .malformedFrame := by
  unfold decodeOperands at h
  split at h
  case h_7 => split at h <;> cases h; rfl
  case h_8 => cases h; rfl
  all_goals cases h

theorem operandsFit_read {c : Config} {k : Command} {rest : List Byte} (hk : isRead k = true) :
    operandsFit c k rest ↔ rest.length = 0 := by
  cases k with
  | rdid => exact Iff.rfl
  | rdsr => exact Iff.rfl
  | wren => cases hk
  | se => cases hk
  | pp => cases hk
  | ce => cases hk
  | wrsr => cases hk

theorem frameEffect_malformed {s : State} {k : Command} {rest : List Byte}
    (hf : s.bus.FRAME = s.cfg.opcode k :: rest) (hk : isRead k = false) (hfit : ¬ operandsFit s.cfg k rest) :
    frameEffect k s = raise .malformedFrame s := by
  cases k with
  | rdid => cases hk
  | rdsr => cases hk
  | wren => exact if_pos (by simpa [hf, operandsFit] using hfit)
  | se => exact if_pos (by simpa [hf, operandsFit] using hfit)
  | ce => exact if_pos (by simpa [hf, operandsFit] using hfit)
  | wrsr => exact if_pos (by simpa [hf, operandsFit] using hfit)
  | pp =>
    refine if_pos ?_
    rw [operandsFit, not_and_or, Bool.not_eq_true, Nat.not_le] at hfit
    rw [hf, List.drop_succ_cons]
    exact hfit.imp_left fun hlen => by rw [List.length_cons]; omega

/-- A latched frame whose operands do not fit its format, at an idle, enabled and unprotected flash. -/
theorem frameEnd_malformed {s : State} {k : Command} {rest : List Byte} (hv : s.cfg.Valid)
    (hf : s.bus.FRAME = s.cfg.opcode k :: rest) (hr : s.bus.FRAME_RD = .none) (hb : s.flash.BUSY = false)
    (hw : s.flash.WEL = true) (hp : s.flash.PROT = false) (hfit : ¬ operandsFit s.cfg k rest) :
    frameEnd true s = raise .malformedFrame s := by
  cases hk : isRead k with
  | false =>
    rw [frameEnd_mutating hv hf hr hb hw (fun _ => hp) hk]
    exact frameEffect_malformed hf hk hfit
  | true =>
    have hlen : s.bus.FRAME.length ≠ 1 := by
      rw [operandsFit_read hk] at hfit
      rw [hf, List.length_cons]
      omega
    rw [frameEnd_opcode hv hf (Or.inl hb)]
    simp [frameChecks, hw, hp, hk, hlen]

/-- Settles O31: the flash refuses each undecodable frame by its own checks; the empty frame ends without effect. -/
theorem undecodableFramesFault : Obligations.UndecodableFramesFault := by
  intro s bytes e h hb hw hp he
  rw [sendRaw_eq h]
  replace he : decodeFrame s.cfg bytes = .error e := he
  cases bytes with
  | nil =>
    cases he
    rw [go_ok rfl (by exact h.1)]
    exact ⟨rfl, nofun, nofun, fun _ => ⟨rfl, h.1⟩⟩
  | cons op rest =>
    cases hop : commandOf s.cfg op with
    | none =>
      simp only [decodeFrame, hop, Except.error.injEq] at he
      subst he
      have hend := frameEnd_unknown (s := sentFrame (op :: rest) (.csStart :: (op :: rest).map .tx) s) rfl
        (fun hbusy => absurd (hb.symm.trans hbusy.1) nofun) hop true
      rw [go_sentFrame_faults hend]
      exact ⟨rfl, fun _ => rfl, nofun, nofun⟩
    | some k =>
      simp only [decodeFrame, hop] at he
      obtain rfl := decodeOperands_error he
      obtain rfl := opcode_of_commandOf hop
      have hfit : ¬ operandsFit s.cfg k rest := fun hfit => by
        obtain ⟨i, hi⟩ := decodeOperands_of_fit hfit
        exact absurd (hi.symm.trans he) nofun
      rw [go_sentFrame_faults (frameEnd_malformed h.2.1 rfl rfl hb hw hp hfit)]
      exact ⟨rfl, nofun, fun _ => rfl, nofun⟩

/-! ## The Host's window, rule R66 -/

theorem hostRead_eq {s : State} {x : U32} {a : Nat} (hs : s.bus.FS = false)
    (hx : x.toNat = s.cfg.FLASH_BASE.toNat + a) (ha : a < s.launch.FLASH_SIZE) :
    hostRead x s = if s.flash.BUSY ∧ inTarget s.flash.PENDING a then
        .next { drewByte s with HOST_BYTE := some (nextByte s) }
      else .next { s with HOST_BYTE := some (memRead s.flash.ARRAY a) } := by
  have hwindow : windowAddress s x = some a := by
    have hsub : x.toNat - s.cfg.FLASH_BASE.toNat = a := by omega
    rw [windowAddress, hsub, if_neg (by omega)]
  rw [hostRead, if_neg (by simp [hs]), hwindow]

/-- Inside the window and outside a pending target the array's byte is read. -/
theorem hostRead_array {s : State} {x : U32} {a : Nat} (hs : s.bus.FS = false)
    (hx : x.toNat = s.cfg.FLASH_BASE.toNat + a) (ha : a < s.launch.FLASH_SIZE)
    (hfree : s.flash.BUSY = false ∨ inTarget s.flash.PENDING a = false) :
    hostRead x s = .next { s with HOST_BYTE := some (memRead s.flash.ARRAY a) } := by
  rw [hostRead_eq hs hx ha, if_neg]
  rintro ⟨hbusy, htarget⟩
  rcases hfree with hfree | hfree
  · exact absurd (hbusy.symm.trans hfree) nofun
  · exact absurd (htarget.symm.trans hfree) nofun

/-- Settles O49: the tests of `hostRead` in their order. -/
theorem hostReadsTheWindow : Obligations.HostReadsTheWindow := by
  intro s x
  refine ⟨fun hs => ?_, fun hs hout => ?_, fun a hs hx ha => ⟨hostRead_array hs hx ha, fun hb ht => ?_⟩⟩
  · rw [hostRead, if_pos hs]
    rfl
  · have hwindow : windowAddress s x = none := by rw [windowAddress, if_pos (by omega)]
    rw [hostRead, if_neg (by simp [hs]), hwindow]
  · exact ⟨nextByte s, (drewByte s).draws, by rw [hostRead_eq hs hx ha, if_pos ⟨hb, ht⟩]; rfl⟩

end Sys2Proof.Machine
end

section
/-! PROOFS. WRITE from its first step to the read back of its data: spec/20_memory.md rules R47 and R66,
spec/43_erase_and_program.md rules R115 to R117, spec/44_orchestrators.md rules R119 to R124. -/

namespace Sys2Proof.Machine

/-! ## The loop of WRITE, rules R119, R120 and R122 -/

/-- The operation that programs a chunk, rules R115 and R117. -/
def writeOperation : Variant → Operation
  | .generic => .page
  | .byteProgrammable => .byte

/-- The number of bytes of the next chunk, rules R120 and R122. -/
def writeLength (c : Config) (cur rem : U32) : Nat :=
  match c.VARIANT with
  | .generic => chunkLength c cur rem
  | .byteProgrammable => 1

/-- The registers a chunk's first step writes: ADDR, and in the generic variant CHUNK. -/
def chunkRegisters (c : Config) (cur rem : U32) (w : Work) : Work :=
  match c.VARIANT with
  | .generic => { w with CHUNK := some (BitVec.ofNat 32 (chunkLength c cur rem)), ADDR := some cur }
  | .byteProgrammable => { w with ADDR := some cur }

/-- The registers of WRITE at L_CHUNK and L_BYTE: the address, the bytes left and the index of the next byte. -/
def loopRegisters (cur rem : U32) (src : Nat) (w : Work) : Work :=
  { w with CUR := some cur, REM := some rem, SRC := some src }

/-- The state after FS_SET(1) of ENABLE for the next chunk. -/
def chunkStarted (cur rem : U32) (s : State) : State :=
  { s with
    work := chunkRegisters s.cfg cur rem s.work
    pc := .enCs (writeOperation s.cfg.VARIANT)
    bus := { s.bus with FS := true, SPI_FS_OTHER := 0#31 }
    TRACE := s.TRACE ++ [.fsSet true] }

/-- With data left, the next chunk. -/
theorem writeLoop_visits {s : State} {cur rem : U32} (hf : s.FAULT = none) (hrem : s.work.REM = some rem)
    (hne : rem ≠ 0#32) (hcur : s.work.CUR = some cur) : writeLoop s = chunkStarted cur rem s := by
  simp only [writeLoop, hrem, need_some, if_neg hne, hcur, writeProgram, chunkStarted, chunkRegisters]
  split
  · next hv => exact (enableFs_ok (by exact hf) _).trans (by rw [hv]; rfl)
  · next hv => exact (enableFs_ok (by exact hf) _).trans (by rw [hv]; rfl)

/-- With nothing left, FS_SET(0) of L_DONE, rule R124. -/
theorem writeLoop_done {s : State} (hf : s.FAULT = none) (hv : s.cfg.Valid) (ho : OpenFrameEnds s)
    (hrem : s.work.REM = some 0#32) :
    writeLoop s = { s with
      pc := .writeEnd
      bus := { s.bus with CS := false, FS := false, SPI_FS_OTHER := 0#31 }
      TRACE := s.TRACE ++ [.fsSet false] } := by
  rw [writeLoop, hrem, need_some, if_pos rfl, fsSet_off hf hv ho, andThen_ok (by exact hf)]
  rfl

/-- WRITE at L_CHUNK or L_BYTE for the first time. -/
def writeHead (dest : U32) (data : List Byte) (s : State) : State :=
  { s with work := loopRegisters (translate s.cfg dest) (BitVec.ofNat 32 data.length) 0 s.work }

/-- The first step of an initialised WRITE. -/
theorem writeStart_ok {s : State} {dest : U32} {data : List Byte} (hdone : s.INIT_DONE = true)
    (ha : s.ACTIVE = some (.write dest data)) (hpc : s.pc = .writeEntry) :
    microStep s = writeLoop (writeHead dest data s) := by
  have hoperands : writeOperands s = some (dest, data) := by rw [writeOperands, ha]
  have hentry : microStep s = writeBegin s := by simp only [microStep, hpc]
  rw [hentry, writeBegin, if_neg (by simp [hdone]), hoperands, need_some]
  rfl

/-- WRITE's translation is one subtraction modulo 2^32, rule R47. -/
theorem translate_eq_ofInt (c : Config) (dest : U32) :
    translate c dest = BitVec.ofInt 32 ((dest.toNat : Int) - c.FLASH_BASE.toNat) := by
  apply BitVec.eq_of_toNat_eq
  rw [translate, BitVec.toNat_sub, BitVec.toNat_ofInt]
  omega

theorem chunkLength_le (c : Config) (cur rem : U32) : chunkLength c cur rem ≤ rem.toNat := Nat.min_le_left _ _

theorem toNat_ofNat_chunkLength (c : Config) (cur rem : U32) :
    (BitVec.ofNat 32 (chunkLength c cur rem)).toNat = chunkLength c cur rem := by
  have hle := chunkLength_le c cur rem
  rw [BitVec.toNat_ofNat]
  omega

/-- Settles O45: the first step is the first pass of the loop over the translated destination. -/
theorem writeBegins : Obligations.WriteBegins := by
  intro s dest data hf hr hv hdone ha hlen ho hpc
  have hstep := step_active hf hr (by simp [ha])
  rw [writeStart_ok hdone ha hpc] at hstep
  refine ⟨_, hstep, ?_⟩
  have hlength : (BitVec.ofNat 32 data.length).toNat = data.length := by
    rw [BitVec.toNat_ofNat, Nat.mod_eq_of_lt hlen]
  rw [← translate_eq_ofInt]
  by_cases hdata : data = []
  · have hrem : (writeHead dest data s).work.REM = some 0#32 := by rw [hdata]; rfl
    rw [writeLoop_done (s := writeHead dest data s) hf hv ho hrem]
    exact ⟨hf, rfl, rfl, ⟨_, rfl, hlength⟩, rfl, fun _ => ⟨rfl, rfl, rfl, rfl⟩, fun hne => absurd hdata hne⟩
  · have hne : BitVec.ofNat 32 data.length ≠ 0#32 := fun hzero => by
      rw [hzero] at hlength
      exact hdata (List.length_eq_zero_iff.mp hlength.symm)
    rw [writeLoop_visits (s := writeHead dest data s) hf rfl hne rfl, chunkStarted]
    have hcfg : (writeHead dest data s).cfg = s.cfg := rfl
    cases hvariant : s.cfg.VARIANT with
    | generic =>
      rw [hcfg, hvariant, chunkRegisters, hvariant]
      refine ⟨hf, rfl, rfl, ⟨_, rfl, hlength⟩, rfl, fun hnil => absurd hnil hdata, fun _ =>
        ⟨rfl, rfl, nofun, fun _ => ⟨rfl, _, _, rfl, rfl, ?_⟩⟩⟩
      rw [toNat_ofNat_chunkLength, chunkLength, hlength]
    | byteProgrammable =>
      rw [hcfg, hvariant, chunkRegisters, hvariant]
      exact ⟨hf, rfl, rfl, ⟨_, rfl, hlength⟩, rfl, fun hnil => absurd hnil hdata, fun _ =>
        ⟨rfl, rfl, fun _ => rfl, nofun⟩⟩

/-! ## The frame of PP, rules R115 and R117 -/

theorem operationData_standing {s t : State} (o : Operation) (h : standing t = standing s) :
    operationData o t = operationData o s := by
  have hblank : ∀ u, operationData o (standing u) = operationData o u := fun u => by cases o <;> rfl
  rw [← hblank t, h, hblank]

theorem afterByte_more {s : State} {o : Operation} {ds : List Byte} {k : Nat} (hd : operationData o s = some ds)
    (hk : k < ds.length) : afterByte o k s = goTo (.frData o k) s := by
  rw [afterByte, hd, need_some, if_pos hk]

theorem afterByte_last {s : State} {o : Operation} {ds : List Byte} {k : Nat} (hd : operationData o s = some ds)
    (hk : ds.length ≤ k) : afterByte o k s = goTo (.frGo o) (setPhase .issued s) := by
  rw [afterByte, hd, need_some, if_neg (Nat.not_lt.mpr hk)]

/-- The address of a frame with data bytes after it. -/
theorem frameAddress_data_ok {s : State} {o : Operation} {a : U32} {ds : List Byte} (hf : s.FAULT = none)
    (hc : s.bus.CS = true) (hr : s.bus.FRAME_RD = .none) (ha : s.work.ADDR = some a) (hfit : fits24 a = true)
    (hd : operationData o s = some ds) (hlen : 1 ≤ ds.length) :
    frameAddress o s = { s with
      pc := .frData o 0
      bus := { s.bus with FRAME := s.bus.FRAME ++ addrBytes a }
      TRACE := s.TRACE ++ [.txAddr (a.extractLsb' 0 24)] } := by
  rw [frameAddress, ha, need_some, txAddr_ok hc hr hfit, andThen_ok (by exact hf)]
  exact afterByte_more ((operationData_standing o rfl).trans hd) hlen

/-- The state after TX of a byte of an open frame. -/
def sentByte (b : Byte) (s : State) : State :=
  emit (.tx b) { s with bus := { s.bus with FRAME := s.bus.FRAME ++ [b] } }

@[simp] theorem standing_sentByte (b : Byte) (s : State) : standing (sentByte b s) = standing s := rfl

/-- Once byte `k` of the data is sent, one byte more of the data stands in the frame. -/
theorem sentByte_frame {s : State} {ds head : List Byte} {k : Nat} (hk : k < ds.length)
    (hframe : s.bus.FRAME = head ++ ds.take k) : (sentByte ds[k] s).bus.FRAME = head ++ ds.take (k + 1) := by
  rw [← List.take_append_getElem hk, ← List.append_assoc, ← hframe]
  rfl

/-- The step at data byte `k`. -/
theorem frameData_step {s : State} {o : Operation} {ds : List Byte} {k : Nat} (hpc : s.pc = .frData o k)
    (hf : s.FAULT = none) (hc : s.bus.CS = true) (hr : s.bus.FRAME_RD = .none) (hd : operationData o s = some ds)
    (hk : k < ds.length) : microStep s = afterByte o (k + 1) (sentByte ds[k] s) := by
  have hstep : microStep s = frameData o k s := by simp only [microStep, hpc]
  rw [hstep, frameData, hd, need_some, List.getElem?_eq_getElem hk, need_some, tx_ok hc hr, andThen_ok (by exact hf)]
  rfl

/-- The frame `bytes` of an operation is sent from `s` on, and awaits its GO in `t`. -/
structure FrameSent (o : Operation) (bytes : List Byte) (s t : State) : Prop where
  reaches : Reaches s t
  pc : t.pc = .frGo o
  standing : standing t = standing s
  cs : t.bus.CS = true
  window : t.bus.FRAME_RD = .none
  frame : t.bus.FRAME = bytes
  draws : t.draws = s.draws
  flash : t.flash = s.flash

/-- The data bytes from byte `k` on are sent one by one. -/
theorem frameData_sends {o : Operation} {ds head : List Byte} (m : Nat) {k : Nat} {s : State} (h : Running s)
    (hpc : s.pc = .frData o k) (hc : s.bus.CS = true) (hr : s.bus.FRAME_RD = .none)
    (hd : operationData o s = some ds) (hlen : ds.length = k + 1 + m) (hframe : s.bus.FRAME = head ++ ds.take k) :
    ∃ t, FrameSent o (head ++ ds) s t := by
  induction m generalizing k s with
  | zero =>
    have hk : k < ds.length := by omega
    have hstep := frameData_step hpc h.fault hc hr hd hk
    have hsent := sentByte_frame hk hframe
    rw [List.take_of_length_le hlen.le] at hsent
    rw [afterByte_last ((operationData_standing o (standing_sentByte _ s)).trans hd) hlen.le] at hstep
    exact ⟨_, .active h.fault h.line h.active hstep (.refl _), rfl, rfl, hc, hr, hsent, rfl, rfl⟩
  | succ m ih =>
    have hk : k < ds.length := by omega
    have hstep := frameData_step hpc h.fault hc hr hd hk
    have hsent := sentByte_frame hk hframe
    rw [afterByte_more ((operationData_standing o (standing_sentByte _ s)).trans hd) (by omega)] at hstep
    obtain ⟨t, ht⟩ := ih (s := goTo (.frData o (k + 1)) (sentByte ds[k] s)) (h.of_standing rfl) rfl hc hr
      ((operationData_standing o rfl).trans hd) (by omega) hsent
    exact ⟨t, { ht with reaches := .active h.fault h.line h.active hstep ht.reaches }⟩

/-- The bytes of a PP frame are sent, up to its GO. -/
theorem ppFrame_sends {s : State} {o : Operation} {a : U32} {ds : List Byte} (ho : o ≠ .unlock) (h : Running s)
    (hpc : s.pc = .frCs o) (hc : s.bus.CS = false) (ha : s.work.ADDR = some a) (hfit : fits24 a = true)
    (hd : operationData o s = some ds) (hlen : 1 ≤ ds.length) :
    ∃ t, FrameSent o (s.cfg.opcode (operationCommand o) :: (addrBytes a ++ ds)) s t := by
  have hcs : microStep s = frameCs o s := by simp only [microStep, hpc]
  have hopen : CanOpen s := ⟨h.fault, h.valid, h.fs, fun hopen => absurd (hc.symm.trans hopen) nofun⟩
  obtain ⟨t, ht⟩ := frameData_sends (s := { s with
      pc := .frData o 0
      bus := { s.bus with
        CS := true, FRAME := s.cfg.opcode (operationCommand o) :: addrBytes a, FRAME_RD := .none }
      TRACE := s.TRACE ++ [.csStart] ++ [.tx (s.cfg.opcode (operationCommand o))] ++ [.txAddr (a.extractLsb' 0 24)] })
    (o := o) (k := 0) (ds := ds) (head := s.cfg.opcode (operationCommand o) :: addrBytes a) (ds.length - 1)
    ⟨h.fault, h.line, h.active, h.valid, h.fs⟩ rfl rfl rfl ((operationData_standing o rfl).trans hd) (by omega)
    (by simp)
  refine ⟨t, { ht with reaches := ?_ }⟩
  exact .active h.fault h.line h.active (hcs.trans (frameCs_ok hopen)) <|
    .active h.fault h.line h.active (frameOp_ok ho h.fault rfl rfl) <|
    .active h.fault h.line h.active (frameAddress_data_ok h.fault rfl rfl ha hfit
      ((operationData_standing o rfl).trans hd) hlen) ht.reaches

/-- The frame of PP with fitting data and targets inside an enabled and unprotected flash starts the program. -/
theorem ppFrame_reaches {s : State} {o : Operation} {a : U32} {ds : List Byte} (ho : operationCommand o = .pp)
    (h : Running s) (hpc : s.pc = .frCs o) (hc : s.bus.CS = false) (hflash : Enabled s) (hprot : s.flash.PROT = false)
    (ha : s.work.ADDR = some a) (hfit : fits24 a = true) (hd : operationData o s = some ds)
    (hdata : dataFits s.cfg ds = true)
    (hin : ∀ x ∈ programCells s.cfg.PAGE_SIZE a.toNat 0 ds, x.1 < s.launch.FLASH_SIZE) :
    ∃ t, Reaches s t ∧ t.pc = .pollStart o ∧ standing t = standing s ∧ t.bus.CS = false ∧
      t.draws.durations = s.draws.durations.tail ∧
      t.flash = { s.flash with
        BUSY := true, PENDING := .program (programCells s.cfg.PAGE_SIZE a.toNat 0 ds), LEFT := nextDuration s } := by
  obtain ⟨hidle, hwel⟩ := hflash
  obtain ⟨hlen, _⟩ := of_decide_eq_true hdata
  obtain ⟨t, ht⟩ := ppFrame_sends (by rintro rfl; cases ho) h hpc hc ha hfit hd hlen
  obtain ⟨htcfg, htlaunch, _⟩ := standing_fields ht.standing
  have hrun := h.of_standing ht.standing
  have hframe := ht.frame
  rw [ho, ← htcfg] at hframe
  have hstarts : frameEnd true t = startCycle (.program (programCells s.cfg.PAGE_SIZE a.toNat 0 ds)) t := by
    rw [frameEnd_mutating (k := .pp) hrun.valid hframe ht.window (ht.flash ▸ hidle) (ht.flash ▸ hwel)
      (fun _ => ht.flash ▸ hprot) rfl, ← htcfg]
    exact frameEffect_pp hframe hfit (htcfg ▸ hdata) (htcfg ▸ htlaunch ▸ hin)
  have hgo : microStep t = frameGo o t := by simp only [microStep, ht.pc]
  refine ⟨_, ht.reaches.trans (.active hrun.fault hrun.line hrun.active
    (hgo.trans (frameGo_ok hrun.fault ht.cs hstarts)) (.refl _)), rfl, ht.standing, rfl, ?_, ?_⟩
  · exact congrArg (fun d => d.durations.tail) ht.draws
  · simp only [nextDuration, ht.flash, ht.draws]

/-! ## The visit of a chunk, rules R115, R117 and R121 -/

/-- The pairs of a frame that stays inside its page. -/
theorem programCells_eq_of_page {p a : Nat} {ds : List Byte} (hpage : a % p + ds.length ≤ p) :
    programCells p a 0 ds = ds.mapIdx fun i d => (a + i, d) := by
  rw [programCells_eq_mapIdx]
  refine List.mapIdx_eq_mapIdx_iff.mpr fun i hi => ?_
  have hmod : (a % p + (0 + i)) % p = a % p + i := by rw [Nat.zero_add, Nat.mod_eq_of_lt (by omega)]
  have hle := Nat.mod_le a p
  rw [pageTarget, hmod]
  congr 1
  omega

/-- A program of a run of erased bytes inside one page, rules R60 and R121: byte `i` stands at `a + i`, and every other
byte is as before. -/
theorem programAll_run {p a : Nat} {ds : List Byte} {s : State} (hwf : s.flash.ARRAY.wf)
    (hpage : a % p + ds.length ≤ p)
    (herased : ∀ i, i < ds.length → memRead s.flash.ARRAY (a + i) = erasedByte) (b : Nat) :
    memRead (programAll (programCells p a 0 ds) s).flash.ARRAY b =
      if a ≤ b then ds.getD (b - a) (memRead s.flash.ARRAY b) else memRead s.flash.ARRAY b := by
  rw [programCells_eq_of_page hpage]
  by_cases hb : a ≤ b ∧ b - a < ds.length
  · obtain ⟨hle, hlt⟩ := hb
    have hdistinct : ((ds.mapIdx fun i d => (a + i, d)).map (·.1)).Nodup := by
      rw [List.Nodup, List.pairwise_iff_getElem]
      intro i j hi hj hij
      simp only [List.getElem_map, List.getElem_mapIdx]
      omega
    have hmem : (b, ds[b - a]) ∈ ds.mapIdx fun i d => (a + i, d) :=
      List.mem_mapIdx.mpr ⟨b - a, hlt, by rw [Nat.add_sub_cancel' hle]⟩
    have hread : memRead s.flash.ARRAY b = erasedByte := by
      have htarget := herased (b - a) hlt
      rwa [Nat.add_sub_cancel' hle] at htarget
    rw [programAll_target _ s hwf hdistinct hmem hread, if_pos hle, List.getD_eq_getElem _ _ hlt]
  · rw [programAll_other _ s hwf]
    · split
      · rw [List.getD_eq_default _ _ (by omega)]
      · rfl
    · intro x hx
      obtain ⟨i, hi, rfl⟩ := List.mem_mapIdx.mp hx
      show a + i ≠ b
      omega

theorem complete_program_flash {s : State} {ws : List Host.Cell} (h : s.flash.PENDING = .program ws) :
    (complete s).flash = { s.flash with
      ARRAY := (programAll ws s).flash.ARRAY, WEL := false, BUSY := false, PENDING := .none } := by
  obtain ⟨m, draws, e⟩ := programAll_eq ws s
  rw [complete_flash, h, cycleEffect, e]

/-- The array `m'` after the bytes `ds` are programmed at `a` into the array `m`, and nothing else. -/
def ArrayWritten (a : Nat) (ds : List Byte) (m m' : Memory) : Prop :=
  m'.wf ∧ ∀ b, memRead m' b = if a ≤ b then ds.getD (b - a) (memRead m b) else memRead m b

/-- How the visit of the chunk `ds` at `a` from `s` ends: POLL returns over an idle flash with the chunk programmed, and
one duration is drawn. -/
structure ChunkProgrammed (o : Operation) (a : U32) (ds : List Byte) (s t : State) : Prop where
  reaches : Reaches s t
  pc : t.pc = .pollTest o
  standing : standing t = standing s
  frame : t.bus.FRAME = [s.cfg.OP_RDSR]
  status : ∃ v, t.work.STATUS = some v ∧ busyFlag v = false
  polls : t.work.POLLS.isSome
  durations : t.draws.durations = s.draws.durations.tail
  idle : t.flash.BUSY = false
  prot : t.flash.PROT = s.flash.PROT
  array : ArrayWritten a.toNat ds s.flash.ARRAY t.flash.ARRAY

/-- What the chunk `ds` at the address `a` needs to be programmed: its bytes fit a frame, it lies inside one page of the
flash, and its targets are erased. -/
structure ChunkFits (a : U32) (ds : List Byte) (s : State) : Prop where
  fit : fits24 a = true
  data : dataFits s.cfg ds = true
  page : a.toNat % s.cfg.PAGE_SIZE + ds.length ≤ s.cfg.PAGE_SIZE
  inside : a.toNat + ds.length ≤ s.launch.FLASH_SIZE
  wf : s.flash.ARRAY.wf
  erased : ∀ i, i < ds.length → memRead s.flash.ARRAY (a.toNat + i) = erasedByte

theorem ChunkFits.targets {a : U32} {ds : List Byte} {s : State} (h : ChunkFits a ds s) :
    ∀ x ∈ programCells s.cfg.PAGE_SIZE a.toNat 0 ds, x.1 < s.launch.FLASH_SIZE := by
  intro x hx
  rw [programCells_eq_of_page h.page] at hx
  obtain ⟨i, hi, rfl⟩ := List.mem_mapIdx.mp hx
  exact Nat.lt_of_lt_of_le (Nat.add_lt_add_left hi _) h.inside

/-- The visit of a chunk: ENABLE, the frame of PP, and POLL until the program is complete. -/
theorem chunkVisit_programs {s : State} {o : Operation} {a : U32} {ds : List Byte} {n : Nat}
    (ho : operationCommand o = .pp) (h : Running s) (hlimit : s.cfg.POLL_LIMIT = none) (hpc : s.pc = .enCs o)
    (hopen : OpenFrameEnds s) (hb : s.flash.BUSY = false) (hprot : s.flash.PROT = false)
    (ha : s.work.ADDR = some a) (hd : operationData o s = some ds) (hfits : ChunkFits a ds s)
    (hfinite : nextDuration s = .reads n) : ∃ t, ChunkProgrammed o a ds s t := by
  obtain ⟨t, hst, htpc, htstand, htwork, htdraws, htc, htflash⟩ := enable_reaches h hpc hopen hb
  obtain ⟨htcfg, htlaunch, _⟩ := standing_fields htstand
  obtain ⟨u, htu, hupc, hustand, huc, hudur, huflash⟩ := ppFrame_reaches ho (h.of_standing htstand) htpc htc
    (by rw [Enabled, htflash]; exact ⟨hb, rfl⟩) (by rw [htflash]; exact hprot) (htwork ▸ ha) hfits.fit
    ((operationData_standing o htstand).trans hd) (htcfg ▸ hfits.data) (htcfg ▸ htlaunch ▸ hfits.targets)
  have hsu := hustand.trans htstand
  obtain ⟨hucfg, hulaunch, _⟩ := standing_fields hsu
  have hdraw : nextDuration t = .reads n := by rw [nextDuration, htdraws]; exact hfinite
  rw [htflash, htcfg, hdraw] at huflash
  obtain ⟨w, huw, hends⟩ := poll_completes (h.of_standing hsu) (hucfg ▸ hlimit) hupc
    (fun hcs => absurd (huc.symm.trans hcs) nofun) (by rw [huflash]) (by rw [huflash])
  obtain ⟨r, _, _, hr, hw⟩ := hends.flash
  rw [huflash] at hr
  rw [complete_program_flash (by rw [hr])] at hw
  have hrarray : r.flash.ARRAY = s.flash.ARRAY := by rw [hr]
  have hrun := programAll_run (s := r) (hrarray ▸ hfits.wf) hfits.page (by rw [hrarray]; exact hfits.erased)
  have hwf : (programAll (programCells s.cfg.PAGE_SIZE a.toNat 0 ds) r).flash.ARRAY.wf :=
    cycleEffect_memWf (.program _) (hrarray ▸ hfits.wf)
  rw [hrarray] at hrun
  exact ⟨w, hst.trans (htu.trans huw), hends.pc, hends.standing.trans hsu, hucfg ▸ hends.frame, hends.status,
    hends.polls, by rw [hends.durations, hudur, htdraws], by rw [hw], by rw [hw, hr], by rw [hw]; exact ⟨hwf, hrun⟩⟩

/-- The bytes just programmed, as the next step finds them, rules R120 and R122. -/
theorem programmedLength_eq {s : State} {c : Config} {cur rem : U32} {w : Work} (hcfg : s.cfg = c)
    (hchunk : s.work.CHUNK = (chunkRegisters c cur rem w).CHUNK) :
    programmedLength s = some (BitVec.ofNat 32 (writeLength c cur rem)) := by
  subst hcfg
  cases hv : s.cfg.VARIANT with
  | generic => simp only [programmedLength, writeLength, chunkRegisters, hv, hchunk]
  | byteProgrammable => simp only [programmedLength, writeLength, hv]

/-- CUR, SRC and REM advance by the bytes just programmed, and the loop follows. -/
theorem writeNext_ok {s : State} {cur rem n : U32} {src : Nat} (hn : programmedLength s = some n)
    (hcur : s.work.CUR = some cur) (hrem : s.work.REM = some rem) (hsrc : s.work.SRC = some src) :
    writeNext s = writeLoop { s with work := loopRegisters (cur + n) (rem - n) (src + n.toNat) s.work } := by
  simp only [writeNext, hn, hcur, hsrc, hrem, need_some]
  rfl

/-- POLL returns to WRITE: CUR, REM and SRC advance by the chunk, and the loop follows in the same step. -/
theorem ChunkProgrammed.step {o : Operation} {a : U32} {ds : List Byte} {s t : State} {cur rem n : U32} {src : Nat}
    (h : ChunkProgrammed o a ds s t) (ho : operationCommand o = .pp) (hn : programmedLength t = some n)
    (hcur : t.work.CUR = some cur) (hrem : t.work.REM = some rem) (hsrc : t.work.SRC = some src) :
    ∃ polls, microStep t = writeLoop { t with
      PHASE := .idle
      work := loopRegisters (cur + n) (rem - n) (src + n.toNat) { t.work with POLLS := some polls } } := by
  obtain ⟨v, hstatus, hflag⟩ := h.status
  obtain ⟨polls, hpolls⟩ := Option.isSome_iff_exists.mp h.polls
  have htest : microStep t = pollTest o t := by simp only [microStep, h.pc]
  have hreturn : ∀ u, pollReturn o u = writeNext u := fun u => by
    cases o with
    | unlock => cases ho
    | sector => cases ho
    | page => rfl
    | byte => rfl
  refine ⟨polls + 1, htest.trans ((pollTest_return hstatus hpolls hflag).trans ?_)⟩
  rw [hreturn]
  exact writeNext_ok (by exact hn) hcur hrem hsrc

/-! ## Chunks of the buffer, rules R120 to R122 -/

section
variable (c : Config) (cur rem : U32) (w : Work)

@[simp] theorem chunkRegisters_CUR : (chunkRegisters c cur rem w).CUR = w.CUR := by
  unfold chunkRegisters
  split <;> rfl

@[simp] theorem chunkRegisters_REM : (chunkRegisters c cur rem w).REM = w.REM := by
  unfold chunkRegisters
  split <;> rfl

@[simp] theorem chunkRegisters_SRC : (chunkRegisters c cur rem w).SRC = w.SRC := by
  unfold chunkRegisters
  split <;> rfl

@[simp] theorem chunkRegisters_ADDR : (chunkRegisters c cur rem w).ADDR = some cur := by
  unfold chunkRegisters
  split <;> rfl

end

theorem operationCommand_writeOperation (v : Variant) : operationCommand (writeOperation v) = .pp := by
  cases v <;> rfl

/-- A chunk holds a byte at least, no more than are left, and lies inside one page. -/
theorem writeLength_bounds {c : Config} (hv : c.Valid) (cur : U32) {rem : U32} (hrem : 1 ≤ rem.toNat) :
    1 ≤ writeLength c cur rem ∧ writeLength c cur rem ≤ rem.toNat ∧
    cur.toNat % c.PAGE_SIZE + writeLength c cur rem ≤ c.PAGE_SIZE ∧
    (c.VARIANT = .byteProgrammable → writeLength c cur rem = 1) := by
  obtain ⟨⟨k, hk⟩, _⟩ := hv
  have hlt : cur.toNat % c.PAGE_SIZE < c.PAGE_SIZE := Nat.mod_lt _ (hk ▸ Nat.two_pow_pos _)
  cases hvariant : c.VARIANT with
  | generic =>
    simp only [writeLength, hvariant, chunkLength]
    exact ⟨by omega, by omega, by omega, nofun⟩
  | byteProgrammable =>
    have hone : writeLength c cur rem = 1 := by rw [writeLength, hvariant]
    rw [hone]
    exact ⟨le_rfl, hrem, hlt, fun _ => rfl⟩

/-- The bytes of a chunk, as PROGRAM_PAGE or PROGRAM_BYTE reads them. -/
theorem operationData_chunk {s : State} {dest cur rem : U32} {data : List Byte} {src : Nat} {w : Work}
    (ha : s.ACTIVE = some (.write dest data)) (hsrc : s.work.SRC = some src) (hlt : src < data.length)
    (hchunk : s.work.CHUNK = (chunkRegisters s.cfg cur rem w).CHUNK) :
    operationData (writeOperation s.cfg.VARIANT) s =
      some ((data.drop src).take (writeLength s.cfg cur rem)) := by
  have hoperands : writeOperands s = some (dest, data) := by rw [writeOperands, ha]
  cases hv : s.cfg.VARIANT with
  | generic =>
    simp only [chunkRegisters, hv] at hchunk
    simp only [writeOperation, operationData, chunkBytes, hoperands, hsrc, hchunk, writeLength, hv,
      toNat_ofNat_chunkLength]
  | byteProgrammable =>
    simp only [writeOperation, operationData, currentByte, hoperands, hsrc, writeLength, hv,
      List.getElem?_eq_getElem hlt]
    rw [List.drop_eq_getElem_cons hlt]
    rfl

theorem standing_writeRegisters {s t : State} (h : standing t = standing s) :
    t.work.CUR = s.work.CUR ∧ t.work.REM = s.work.REM ∧ t.work.SRC = s.work.SRC ∧ t.work.CHUNK = s.work.CHUNK := by
  simp only [standing, State.mk.injEq, Work.mk.injEq] at h
  tauto

/-- One run of bytes after another. -/
theorem ArrayWritten.append {a n : Nat} {ds es : List Byte} {m m' m'' : Memory} (h : ArrayWritten a ds m m')
    (hn : ds.length = n) (g : ArrayWritten (a + n) es m' m'') : ArrayWritten a (ds ++ es) m m'' := by
  subst hn
  obtain ⟨_, hread⟩ := h
  obtain ⟨hwf, gread⟩ := g
  refine ⟨hwf, fun b => ?_⟩
  rw [gread, hread]
  by_cases hlow : a ≤ b
  · by_cases hhigh : a + ds.length ≤ b
    · rw [if_pos hhigh, if_pos hlow, if_pos hlow, List.getD_append_right _ _ _ _ (by omega),
        List.getD_eq_default ds _ (by omega), Nat.sub_sub]
    · rw [if_neg hhigh, if_pos hlow, if_pos hlow, List.getD_append _ _ _ _ (by omega)]
  · rw [if_neg (by omega), if_neg hlow, if_neg hlow]

/-! ## The loop of WRITE, rule R119 -/

/-- The flash-relative address of the destination. -/
def relative (s : State) (dest : U32) : Nat := dest.toNat - s.cfg.FLASH_BASE.toNat

/-- CUR with `j` bytes of the buffer written. -/
def curAt (s : State) (dest : U32) (j : Nat) : U32 := translate s.cfg dest + BitVec.ofNat 32 j

/-- REM with `j` bytes of the buffer written. -/
def remAt (data : List Byte) (j : Nat) : U32 := BitVec.ofNat 32 (data.length - j)

theorem curAt_add (s : State) (dest : U32) (j n : Nat) :
    curAt s dest j + BitVec.ofNat 32 n = curAt s dest (j + n) := by
  rw [curAt, curAt, BitVec.add_assoc, BitVec.ofNat_add]

theorem remAt_sub {data : List Byte} {j n : Nat} (hn : j + n ≤ data.length) (hlen : data.length < 2 ^ 32) :
    remAt data j - BitVec.ofNat 32 n = remAt data (j + n) := by
  rw [remAt, remAt, BitVec.ofNat_sub_ofNat_of_le _ _ (by omega) (by omega), Nat.sub_sub]

/-- The length of the chunk after `j` bytes of the buffer. -/
def lengthAt (s : State) (dest : U32) (data : List Byte) (j : Nat) : Nat :=
  writeLength s.cfg (curAt s dest j) (remAt data j)

/-- The chunk after `j` bytes of the buffer. -/
def chunkAt (s : State) (dest : U32) (data : List Byte) (j : Nat) : List Byte :=
  (data.drop j).take (lengthAt s dest data j)

/-- What WRITE of `data` to `dest` needs of the state it starts in: valid parameters with the unbounded poll, a
destination inside the window, and erased targets. -/
structure WriteFits (s : State) (dest : U32) (data : List Byte) : Prop where
  valid : s.cfg.Valid
  unbounded : s.cfg.POLL_LIMIT = none
  base : s.cfg.FLASH_BASE.toNat ≤ dest.toNat
  inside : relative s dest + data.length ≤ s.launch.FLASH_SIZE
  small : s.launch.FLASH_SIZE ≤ 2 ^ 24
  erased : ∀ j, j < data.length → memRead s.flash.ARRAY (relative s dest + j) = erasedByte

/-- WRITE in progress at L_CHUNK or L_BYTE with the first `j` bytes written. -/
structure WrittenUpTo (s₀ : State) (dest : U32) (data : List Byte) (j : Nat) (s : State) : Prop where
  fault : s.FAULT = none
  line : s.RESET_LINE = none
  active : s.ACTIVE = some (.write dest data)
  cfg : s.cfg = s₀.cfg
  launch : s.launch = s₀.launch
  frame : OpenFrameEnds s
  cur : s.work.CUR = some (curAt s₀ dest j)
  rem : s.work.REM = some (remAt data j)
  src : s.work.SRC = some j
  le : j ≤ data.length
  completes : FlashCompletes (data.length - j) s.draws
  idle : s.flash.BUSY = false
  prot : s.flash.PROT = false
  array : ArrayWritten (relative s₀ dest) (data.take j) s₀.flash.ARRAY s.flash.ARRAY

theorem FlashCompletes.mono {m n : Nat} {d : Draws} (h : FlashCompletes n d) (hmn : m ≤ n) : FlashCompletes m d :=
  ⟨hmn.trans h.1, fun x hx => h.2 x (List.take_subset_take_left _ hmn hx)⟩

/-- How WRITE ends: with Ok, the window readable, and the buffer written. -/
structure WriteEnded (s₀ : State) (dest : U32) (data : List Byte) (t : State) : Prop where
  ended : Over .ok t
  cfg : t.cfg = s₀.cfg
  launch : t.launch = s₀.launch
  fs : t.bus.FS = false
  cs : t.bus.CS = false
  idle : t.flash.BUSY = false
  array : ArrayWritten (relative s₀ dest) data s₀.flash.ARRAY t.flash.ARRAY

/-- The End of WRITE with nothing left. -/
theorem writeFinish_ok {s : State} (hrem : s.work.REM = some 0#32) : writeFinish s = endWith .ok s := by
  simp [writeFinish, hrem]

section
variable {s₀ : State} {dest : U32} {data : List Byte} (hfits : WriteFits s₀ dest data)
include hfits

/-- The address of byte `j` of the buffer. -/
theorem WriteFits.toNat_curAt {j : Nat} (hj : j ≤ data.length) : (curAt s₀ dest j).toNat = relative s₀ dest + j := by
  have hbase : (translate s₀.cfg dest).toNat = relative s₀ dest := BitVec.toNat_sub_of_le hfits.base
  have hinside := hfits.inside
  have hsmall := hfits.small
  rw [curAt, BitVec.toNat_add, hbase, BitVec.toNat_ofNat]
  omega

theorem WriteFits.toNat_remAt (j : Nat) : (remAt data j).toNat = data.length - j := by
  have hinside := hfits.inside
  have hsmall := hfits.small
  rw [remAt, BitVec.toNat_ofNat]
  omega

theorem WriteFits.lengthAt_bounds {j : Nat} (hj : j < data.length) :
    1 ≤ lengthAt s₀ dest data j ∧ j + lengthAt s₀ dest data j ≤ data.length ∧
    (relative s₀ dest + j) % s₀.cfg.PAGE_SIZE + lengthAt s₀ dest data j ≤ s₀.cfg.PAGE_SIZE ∧
    (s₀.cfg.VARIANT = .byteProgrammable → lengthAt s₀ dest data j = 1) := by
  have hrem := hfits.toNat_remAt j
  obtain ⟨h1, hle, hpage, hone⟩ := writeLength_bounds hfits.valid (curAt s₀ dest j) (rem := remAt data j) (by omega)
  rw [hfits.toNat_curAt hj.le] at hpage
  exact ⟨h1, by rw [lengthAt]; omega, hpage, hone⟩

theorem WriteFits.length_chunkAt {j : Nat} (hj : j < data.length) :
    (chunkAt s₀ dest data j).length = lengthAt s₀ dest data j := by
  obtain ⟨_, hle, _⟩ := hfits.lengthAt_bounds hj
  rw [chunkAt, List.length_take, List.length_drop]
  omega

/-- The next chunk can be programmed: its targets are erased, because they are not written yet. -/
theorem WrittenUpTo.chunkFits {j : Nat} {s : State} (h : WrittenUpTo s₀ dest data j s) (hj : j < data.length) :
    ChunkFits (curAt s₀ dest j) (chunkAt s₀ dest data j) (chunkStarted (curAt s₀ dest j) (remAt data j) s) := by
  obtain ⟨h1, hle, hpage, hone⟩ := hfits.lengthAt_bounds hj
  have hcur := hfits.toNat_curAt h.le
  have hlen := hfits.length_chunkAt hj
  have hcfg : (chunkStarted (curAt s₀ dest j) (remAt data j) s).cfg = s₀.cfg := h.cfg
  have hlaunch : (chunkStarted (curAt s₀ dest j) (remAt data j) s).launch = s₀.launch := h.launch
  have hinside := hfits.inside
  have hsmall := hfits.small
  obtain ⟨hwf, hread⟩ := h.array
  exact {
    fit := decide_eq_true (by rw [hcur, FLASH_ADDR_BITS]; omega)
    data := decide_eq_true (by rw [hlen, hcfg]; exact ⟨h1, by omega, hone⟩)
    page := by rw [hcur, hlen, hcfg]; exact hpage
    inside := by rw [hcur, hlen, hlaunch]; omega
    wf := hwf
    erased := fun i hi => by
      have hunwritten : (data.take j).length ≤ relative s₀ dest + j + i - relative s₀ dest := by
        rw [List.length_take]
        omega
      rw [hcur]
      refine (hread _).trans ?_
      rw [if_pos (by omega), List.getD_eq_default _ _ hunwritten, Nat.add_assoc]
      exact hfits.erased (j + i) (by omega) }

/-- The visit of the next chunk. -/
theorem WrittenUpTo.visit {j : Nat} {s : State} (h : WrittenUpTo s₀ dest data j s) (hj : j < data.length) :
    ∃ t, ChunkProgrammed (writeOperation s₀.cfg.VARIANT) (curAt s₀ dest j) (chunkAt s₀ dest data j)
        (chunkStarted (curAt s₀ dest j) (remAt data j) s) t ∧
      FlashCompletes (data.length - (j + lengthAt s₀ dest data j)) t.draws := by
  obtain ⟨h1, _⟩ := hfits.lengthAt_bounds hj
  have hleft : data.length - j = data.length - j - 1 + 1 := by omega
  obtain ⟨reads, rest, hdraws, hcompletes⟩ := FlashCompletes.next (hleft ▸ h.completes)
  have hdata : operationData (writeOperation s₀.cfg.VARIANT) (chunkStarted (curAt s₀ dest j) (remAt data j) s) =
      some (chunkAt s₀ dest data j) := by
    have hchunk := operationData_chunk (s := chunkStarted (curAt s₀ dest j) (remAt data j) s) h.active
      (by simp [chunkStarted, h.src]) hj rfl
    have hcfg : (chunkStarted (curAt s₀ dest j) (remAt data j) s).cfg = s₀.cfg := h.cfg
    rwa [hcfg] at hchunk
  obtain ⟨t, ht⟩ := chunkVisit_programs (n := reads) (operationCommand_writeOperation s₀.cfg.VARIANT)
    (s := chunkStarted (curAt s₀ dest j) (remAt data j) s)
    ⟨h.fault, h.line, by simp [chunkStarted, h.active], h.cfg ▸ hfits.valid, rfl⟩ (h.cfg ▸ hfits.unbounded)
    (by rw [chunkStarted, h.cfg]) h.frame h.idle h.prot (by simp [chunkStarted]) hdata (h.chunkFits hfits hj)
    (by simp [chunkStarted, nextDuration, hdraws])
  refine ⟨t, ht, (hcompletes _ ?_).mono (by omega)⟩
  rw [ht.durations, chunkStarted, hdraws]
  rfl

/-- From the loop's test to the loop's test, over the visit of one chunk. -/
theorem writeLoop_next {j : Nat} {s : State} (h : WrittenUpTo s₀ dest data j s) (hj : j < data.length) :
    ∃ t, WrittenUpTo s₀ dest data (j + lengthAt s₀ dest data j) t ∧
      ∀ u, Reaches (writeLoop t) u → Reaches (writeLoop s) u := by
  obtain ⟨h1, hle, _⟩ := hfits.lengthAt_bounds hj
  have hrem := hfits.toNat_remAt j
  have hvisit := writeLoop_visits h.fault h.rem (fun hzero => by simp [hzero] at hrem; omega) h.cur
  obtain ⟨t, ht, hcompletes⟩ := h.visit hfits hj
  obtain ⟨hcfg, hlaunch, _, hactive, hfault, hline, _⟩ := standing_fields ht.standing
  obtain ⟨htcur, htrem, htsrc, htchunk⟩ := standing_writeRegisters ht.standing
  have htcfg : t.cfg = s₀.cfg := hcfg.trans h.cfg
  have hn : programmedLength t = some (BitVec.ofNat 32 (lengthAt s₀ dest data j)) :=
    programmedLength_eq (w := s.work) htcfg (by rw [htchunk, chunkStarted, h.cfg])
  obtain ⟨polls, hstep⟩ := ht.step (operationCommand_writeOperation s₀.cfg.VARIANT) hn
    ((htcur.trans (chunkRegisters_CUR _ _ _ _)).trans h.cur) ((htrem.trans (chunkRegisters_REM _ _ _ _)).trans h.rem)
    ((htsrc.trans (chunkRegisters_SRC _ _ _ _)).trans h.src)
  have harray := ht.array
  rw [hfits.toNat_curAt h.le] at harray
  have hwritten := h.array.append (by rw [List.length_take, Nat.min_eq_left h.le]) harray
  rw [chunkAt, ← List.take_add] at hwritten
  have hinside := hfits.inside
  have hsmall := hfits.small
  refine ⟨_, ?_, fun u hu => hvisit ▸ ht.reaches.trans (.active (hfault.trans h.fault) (hline.trans h.line)
    (by rw [hactive]; exact (h.active ▸ nofun)) hstep hu)⟩
  exact {
    fault := hfault.trans h.fault
    line := hline.trans h.line
    active := hactive.trans h.active
    cfg := htcfg
    launch := hlaunch.trans h.launch
    frame := fun _ => Or.inr (Or.inl (hcfg ▸ ht.frame))
    cur := congrArg some (curAt_add s₀ dest j _)
    rem := congrArg some (remAt_sub hle (by omega))
    src := congrArg some (by rw [BitVec.toNat_ofNat, Nat.mod_eq_of_lt (by omega)])
    le := hle
    completes := hcompletes
    idle := ht.idle
    prot := ht.prot.trans h.prot
    array := hwritten }

/-- With every byte written, L_DONE's FS_SET(0) and the End, rules R124 and R125. -/
theorem writeLoop_finishes {s : State} (h : WrittenUpTo s₀ dest data data.length s) :
    ∃ t, Reaches (writeLoop s) t ∧ WriteEnded s₀ dest data t := by
  have hrem := h.rem
  rw [remAt, Nat.sub_self] at hrem
  rw [writeLoop_done h.fault (h.cfg ▸ hfits.valid) h.frame hrem]
  refine ⟨_, .active h.fault h.line (by simp [h.active]) (writeFinish_ok hrem) (.refl _), ?_⟩
  have harray := h.array
  rw [List.take_length] at harray
  exact ⟨⟨h.fault, rfl, rfl, List.getLast?_concat⟩, h.cfg, h.launch, rfl, rfl, h.idle, harray⟩

/-- The loop from any of its tests to the End, chunk by chunk. -/
theorem writeLoop_ends {j : Nat} {s : State} (h : WrittenUpTo s₀ dest data j s) :
    ∃ t, Reaches (writeLoop s) t ∧ WriteEnded s₀ dest data t := by
  induction hm : data.length - j using Nat.strong_induction_on generalizing j s with
  | _ m ih =>
    subst hm
    rcases h.le.eq_or_lt with rfl | hj
    · exact writeLoop_finishes hfits h
    · obtain ⟨h1, _⟩ := hfits.lengthAt_bounds hj
      obtain ⟨t, ht, hreaches⟩ := writeLoop_next hfits h hj
      obtain ⟨u, hu, hended⟩ := ih (data.length - (j + lengthAt s₀ dest data j)) (by omega) ht rfl
      exact ⟨u, hreaches u hu, hended⟩

end

/-- No byte is written yet at the first pass of the loop. -/
theorem writeHead_writtenUpTo {s : State} {dest : U32} {data : List Byte} (hf : s.FAULT = none)
    (hr : s.RESET_LINE = none) (hopen : OpenFrameEnds s) (hwf : s.flash.ARRAY.wf) (hb : s.flash.BUSY = false)
    (hp : s.flash.PROT = false) (hcompletes : FlashCompletes data.length s.draws) :
    WrittenUpTo s dest data 0 (writeHead dest data (startRequest (.write dest data) s)) where
  fault := hf
  line := hr
  active := rfl
  cfg := rfl
  launch := rfl
  frame := hopen
  cur := congrArg some (BitVec.add_zero _).symm
  rem := rfl
  src := rfl
  le := Nat.zero_le _
  completes := hcompletes
  idle := hb
  prot := hp
  array := ⟨hwf, fun _ => (ite_id _).symm⟩

/-- A Host read of byte `j` of the buffer, rule R66. -/
theorem WriteEnded.hostRead {s t : State} {dest : U32} {data : List Byte} (h : WriteEnded s dest data t)
    (hfits : WriteFits s dest data) (hwindow : dest.toNat + data.length ≤ 2 ^ 32) {j : Nat} (hj : j < data.length) :
    hostRead (dest + BitVec.ofNat 32 j) t = .next { t with HOST_BYTE := some data[j] } := by
  have hbase := hfits.base
  have hinside := hfits.inside
  have haddr : (dest + BitVec.ofNat 32 j).toNat = t.cfg.FLASH_BASE.toNat + (relative s dest + j) := by
    rw [h.cfg, BitVec.toNat_add, BitVec.toNat_ofNat, relative]
    omega
  rw [hostRead_array h.fs haddr (by rw [h.launch]; omega) (Or.inl h.idle)]
  obtain ⟨_, hread⟩ := h.array
  rw [hread, if_pos (Nat.le_add_right _ _), Nat.add_sub_cancel_left, List.getD_eq_getElem _ _ hj]

/-- Settles O47: WRITE starts at its loop with no byte written, and each visit writes the next chunk. -/
theorem writeProgramsTheBuffer : Obligations.WriteProgramsTheBuffer := by
  intro s dest data ⟨hf, ha, hr⟩ hwf hv hl hlimit hdone hopen hb hp hbase hinside hwindow herased hcompletes
  obtain ⟨_, hsmall, _⟩ := hl
  obtain ⟨⟨hcanonical, _⟩, _⟩ := hwf.flash
  have hfits : WriteFits s dest data := ⟨hv, hlimit, hbase, hinside, hsmall, herased⟩
  have hlen : data.length < 2 ^ 32 := by omega
  have hadmitted : requestFits (.write dest data) = true := decide_eq_true hlen
  have hstart : exec (.write dest data) s = .next (startRequest (.write dest data) s) := by
    simp [exec, execWrite, admitRequest, hf, ha, hadmitted]
  have hhead := writeHead_writtenUpTo (dest := dest) hf hr hopen hcanonical hb hp hcompletes
  obtain ⟨t, hreaches, hended⟩ := writeLoop_ends hfits hhead
  obtain ⟨k, hk⟩ := Reaches.active (s := startRequest (.write dest data) s) hf hr (by simp)
    (writeStart_ok hdone rfl rfl) hreaches
  obtain ⟨_, hread⟩ := hended.array
  exact ⟨_, k, t, hstart, hk, hended.ended, hended.idle, hended.fs, hended.cs, hread,
    fun j hj => hended.hostRead hfits hwindow hj⟩

end Sys2Proof.Machine
end

section
/-! PROOFS. The decoder and the encoder are inverse to each other, and which frames decode: spec/30_encoding.md rules
R85 to R90. -/

namespace Sys2Proof.Machine

/-! ## From an instruction to its bytes and back -/

/-- A frame whose first byte is a command's opcode is read by that command's format, rule R88. -/
theorem decode_opcode {c : Config} (hv : c.Valid) (k : Command) (rest : List Byte) :
    decode c .frame (c.opcode k :: rest) = decodeOperands c k rest := by
  simp only [decode, decodeFrame, commandOf_opcode hv]

theorem decodeOperands_se {c : Config} {a : U32} (ha : fits24 a = true) :
    decodeOperands c .se (addrBytes a) = .ok (.se a) :=
  congrArg (fun x => Except.ok (Instr.se x)) (addrOfBytes_addrBytes ha)

theorem decodeOperands_pp {c : Config} {a : U32} {data : List Byte} (ha : fits24 a = true)
    (hd : dataFits c data = true) : decodeOperands c .pp (addrBytes a ++ data) = .ok (.pp a data) :=
  (if_pos hd).trans (congrArg (fun x => Except.ok (Instr.pp x data)) (addrOfBytes_addrBytes ha))

theorem decodeRequest_erase (first last : I32) :
    decodeRequest (1#8 :: (wordBytes first ++ wordBytes last)) = .ok (.erase first last) := by
  simp [decodeRequest, wordBytes, wordOfBytes_wordBytes]

theorem decodeRequest_write {dest : U32} {data : List Byte} (h : data.length < 2 ^ 32) :
    decodeRequest (2#8 :: (wordBytes dest ++ data)) = .ok (.write dest data) := by
  have hword := wordOfBytes_wordBytes dest
  simp only [decodeRequest, wordBytes, List.cons_append, List.nil_append, hword, if_pos h]
  rfl

/-- Settles O2: an instruction's first byte picks out its format, whose operand bytes assemble to its operands. -/
theorem decodeOfEncode : Obligations.DecodeOfEncode := by
  intro c i hv hwf
  cases i with
  | rdid => exact decode_opcode hv .rdid []
  | wren => exact decode_opcode hv .wren []
  | rdsr => exact decode_opcode hv .rdsr []
  | se a => exact (decode_opcode hv .se _).trans (decodeOperands_se hwf)
  | pp a data =>
    obtain ⟨ha, hd⟩ := Bool.and_eq_true_iff.mp hwf
    exact (decode_opcode hv .pp _).trans (decodeOperands_pp ha hd)
  | ce => exact decode_opcode hv .ce []
  | wrsr v => exact decode_opcode hv .wrsr [v]
  | init => rfl
  | erase first last => exact decodeRequest_erase first last
  | write dest data => exact decodeRequest_write (of_decide_eq_true hwf)

/-! ## From bytes to an instruction and back -/

/-- What operand bytes a command's format reads, they encode. -/
theorem encode_of_decodeOperands {c : Config} {k : Command} {rest : List Byte} {i : Instr}
    (h : decodeOperands c k rest = .ok i) :
    encode c i = c.opcode k :: rest ∧ i.wellFormed c = true ∧ i.level = .frame := by
  unfold decodeOperands at h
  split at h
  case h_5 b1 b2 b3 =>
    cases h
    exact ⟨congrArg _ (addrBytes_addrOfBytes b1 b2 b3), fits24_addrOfBytes b1 b2 b3, rfl⟩
  case h_7 b1 b2 b3 ds =>
    split at h
    next hd =>
      cases h
      exact ⟨congrArg (fun bs => c.OP_PP :: (bs ++ ds)) (addrBytes_addrOfBytes b1 b2 b3),
        Bool.and_eq_true_iff.mpr ⟨fits24_addrOfBytes b1 b2 b3, hd⟩, rfl⟩
    · cases h
  case h_8 => cases h
  all_goals cases h; exact ⟨rfl, rfl, rfl⟩

theorem encode_of_decodeFrame {c : Config} {bytes : List Byte} {i : Instr} (h : decodeFrame c bytes = .ok i) :
    encode c i = bytes ∧ i.wellFormed c = true ∧ i.level = .frame := by
  cases bytes with
  | nil => cases h
  | cons op rest =>
    cases hop : commandOf c op with
    | none => simp [decodeFrame, hop] at h
    | some k =>
      obtain rfl := opcode_of_commandOf hop
      simp only [decodeFrame, hop] at h
      exact encode_of_decodeOperands h

theorem encode_of_decodeRequest {c : Config} {bytes : List Byte} {i : Instr} (h : decodeRequest bytes = .ok i) :
    encode c i = bytes ∧ i.wellFormed c = true ∧ i.level = .request := by
  unfold decodeRequest at h
  split at h
  · cases h
  split at h
  next htag =>
    split at h <;> cases h
    exact ⟨by rw [htag]; rfl, rfl, rfl⟩
  split at h
  next htag =>
    split at h <;> cases h
    exact ⟨by simp [encode, wordBytes_wordOfBytes, htag], rfl, rfl⟩
  split at h
  next htag =>
    split at h
    · split at h <;> cases h
      next hlen => exact ⟨by simp [encode, wordBytes_wordOfBytes, htag], decide_eq_true hlen, rfl⟩
    · cases h
  · cases h

/-- Settles O3, level by level. -/
theorem encodeOfDecode : Obligations.EncodeOfDecode := by
  intro c l bytes i h
  cases l with
  | frame => exact encode_of_decodeFrame h
  | request => exact encode_of_decodeRequest h

/-! ## Which frames decode, rules R85 to R89 -/

theorem operandsFit_of_decodeOperands {c : Config} {k : Command} {rest : List Byte} {i : Instr}
    (h : decodeOperands c k rest = .ok i) : operandsFit c k rest := by
  unfold decodeOperands at h
  split at h
  case h_7 b1 b2 b3 ds =>
    split at h
    next hd => exact ⟨by simp, hd⟩
    · cases h
  case h_8 => cases h
  all_goals rfl

theorem exists_decodeOperands_iff {c : Config} {k : Command} {rest : List Byte} :
    (∃ i, decodeOperands c k rest = .ok i) ↔ operandsFit c k rest :=
  ⟨fun ⟨_, h⟩ => operandsFit_of_decodeOperands h, decodeOperands_of_fit⟩

/-- The operand lengths of PP, counted with its three address bytes. -/
theorem operandsFit_pp {c : Config} {rest : List Byte} : operandsFit c .pp rest ↔
    4 ≤ rest.length ∧ rest.length ≤ 3 + c.PAGE_SIZE ∧ (c.VARIANT = .byteProgrammable → rest.length = 4) := by
  simp only [operandsFit, dataFits, List.length_drop, decide_eq_true_eq]
  by_cases hbyte : c.VARIANT = .byteProgrammable
  · simp only [hbyte, forall_const]
    omega
  · simp only [hbyte, false_implies, and_true]
    omega

/-- The first byte of a frame is refused exactly when it is no opcode parameter, rule R89. -/
theorem decodeFrame_unknownOpcode_iff {c : Config} {op : Byte} {rest : List Byte} :
    decodeFrame c (op :: rest) = .error .unknownOpcode ↔ commandOf c op = none := by
  cases hop : commandOf c op with
  | none => simp [decodeFrame, hop]
  | some k =>
    simp only [decodeFrame, hop, reduceCtorEq, iff_false]
    exact fun h => absurd (decodeOperands_error h) nofun

theorem commandOf_eq_none_iff_not_mem {c : Config} {op : Byte} :
    commandOf c op = none ↔ op ∉ Command.all.map c.opcode := by
  refine ⟨fun h => not_mem_opcodes h _, fun h => commandOf_eq_none.mpr fun k hk => h ?_⟩
  exact List.mem_map.mpr ⟨k, command_mem_all k, hk⟩

/-- The formats of rule R85, told apart by the opcode. -/
theorem operandsFit_iff {c : Config} (hv : c.Valid) (k : Command) (rest : List Byte) : operandsFit c k rest ↔
    (c.opcode k ∈ [c.OP_RDID, c.OP_WREN, c.OP_RDSR, c.OP_CE] ∧ rest.length = 0) ∨
    (c.opcode k = c.OP_SE ∧ rest.length = 3) ∨
    (c.opcode k = c.OP_WRSR ∧ rest.length = 1) ∨
    (c.opcode k = c.OP_PP ∧ 4 ≤ rest.length ∧ rest.length ≤ 3 + c.PAGE_SIZE ∧
      (c.VARIANT = .byteProgrammable → rest.length = 4)) := by
  have hbare : c.opcode k ∈ [c.OP_RDID, c.OP_WREN, c.OP_RDSR, c.OP_CE] ↔ k ∈ [.rdid, .wren, .rdsr, .ce] :=
    opcode_mem_map hv (ks := [.rdid, .wren, .rdsr, .ce])
  have hse : c.opcode k = c.OP_SE ↔ k = .se := opcode_inj hv (l := .se)
  have hwrsr : c.opcode k = c.OP_WRSR ↔ k = .wrsr := opcode_inj hv (l := .wrsr)
  have hpp : c.opcode k = c.OP_PP ↔ k = .pp := opcode_inj hv (l := .pp)
  rw [hbare, hse, hwrsr, hpp]
  cases k with
  | pp => simpa using operandsFit_pp
  | rdid => simp [operandsFit]
  | wren => simp [operandsFit]
  | rdsr => simp [operandsFit]
  | se => simp [operandsFit]
  | ce => simp [operandsFit]
  | wrsr => simp [operandsFit]

/-- Settles O4: the first byte is no opcode, or it names a command whose format the rest fits or does not fit. -/
theorem frameDecodesExactlyWhenItFits : Obligations.FrameDecodesExactlyWhenItFits := by
  intro c op rest hv
  refine ⟨?_, decodeFrame_unknownOpcode_iff.trans commandOf_eq_none_iff_not_mem⟩
  cases hop : commandOf c op with
  | none =>
    have hne : ∀ k, c.opcode k ≠ op := commandOf_eq_none.mp hop
    constructor
    · rintro ⟨i, hi⟩
      exact absurd ((decodeFrame_unknownOpcode_iff.mpr hop).symm.trans hi) nofun
    · rintro (⟨hmem, _⟩ | ⟨h, _⟩ | ⟨h, _⟩ | ⟨h, _⟩)
      · exact absurd hmem (not_mem_opcodes hop [.rdid, .wren, .rdsr, .ce])
      · exact absurd h.symm (hne .se)
      · exact absurd h.symm (hne .wrsr)
      · exact absurd h.symm (hne .pp)
  | some k =>
    obtain rfl := opcode_of_commandOf hop
    rw [← operandsFit_iff hv, decode_opcode hv]
    exact exists_decodeOperands_iff

/-- Settles O1, each word by running the decoder. -/
theorem knownWordsDecode : Obligations.KnownWordsDecode :=
  ⟨rfl, rfl, rfl, rfl, rfl, rfl, rfl, rfl, rfl, rfl⟩

end Sys2Proof.Machine
end

section
/-! PROOFS. What each of the nine transport calls does in every state: spec/30_encoding.md rules R73 to R81. -/

namespace Sys2Proof.Machine

/-! ## FS_SET, CLK_SET, CS_START and GO, rules R73 to R75 and R81 -/

theorem andThen_faulted {s : State} (h : s.FAULT ≠ none) (f : State → State) : s.andThen f = s := by
  obtain ⟨x, hx⟩ := Option.ne_none_iff_exists'.mp h
  exact andThen_fault hx f

theorem endOpenFrame_closed {s : State} (hc : s.bus.CS = false) : endOpenFrame s = s :=
  if_neg (by simp [hc])

theorem endOpenFrame_open {s : State} (hc : s.bus.CS = true) : endOpenFrame s = frameEnd false s :=
  if_pos hc

/-- FS_SET(0), once the open frame has ended without a fault. -/
theorem fsSet_off_ended {s : State} (h : (endOpenFrame s).FAULT = none) :
    fsSet false s = { endOpenFrame s with
      bus := { (endOpenFrame s).bus with CS := false, FS := false, SPI_FS_OTHER := 0#31 }
      TRACE := (endOpenFrame s).TRACE ++ [.fsSet false] } := by
  rw [fsSet, if_neg nofun, andThen_ok h]
  refine (andThen_ok (by exact h) _).trans ?_
  rw [regWr_spiFs]
  rfl

theorem fsSet_off_faulted {s : State} (h : (endOpenFrame s).FAULT ≠ none) : fsSet false s = endOpenFrame s := by
  rw [fsSet, if_neg nofun, andThen_faulted h, andThen_faulted h]

/-- Settles O8: FS_SET(0) ends the frame that is open, FS_SET(1) does not. -/
theorem fsSetWritesFunctionSelect : Obligations.FsSetWritesFunctionSelect := by
  intro s hf
  refine ⟨fsSet_on hf, fun hc => ?_, fun hc he => ?_, fun hc he => ?_⟩
  · have hend := endOpenFrame_closed hc
    rw [← hend] at hf
    refine (fsSet_off_ended hf).trans ?_
    rw [hend, ← hc]
  · rw [← endOpenFrame_open hc] at he ⊢
    exact fsSet_off_ended he
  · rw [← endOpenFrame_open hc] at he ⊢
    exact fsSet_off_faulted he

/-- Settles O9: CLK_SET has no condition, and its raw write is of CLKDIV alone. -/
theorem clkSetWritesTheDivisor : Obligations.ClkSetWritesTheDivisor := fun _ _ => ⟨rfl, rfl⟩

/-- CS_START in bit-bang mode, once the open frame has ended without a fault. -/
theorem csStart_ended {s : State} (hs : s.bus.FS = true) (h : (endOpenFrame s).FAULT = none) :
    csStart s = { endOpenFrame s with
      bus := { (endOpenFrame s).bus with CS := true, FRAME := [], FRAME_RD := .none }
      TRACE := (endOpenFrame s).TRACE ++ [.csStart] } := by
  rw [csStart, if_neg (by simp [hs]), andThen_ok h]
  rfl

theorem csStart_faulted {s : State} (hs : s.bus.FS = true) (h : (endOpenFrame s).FAULT ≠ none) :
    csStart s = endOpenFrame s := by
  rw [csStart, if_neg (by simp [hs]), andThen_faulted h]

/-- Settles O10, by whether a frame is open and how it ends. -/
theorem csStartOpensAFrame : Obligations.CsStartOpensAFrame := by
  intro s hf
  refine ⟨csStart_notCommandMode, fun hs hc => ?_, fun hs hc he => ?_, fun hs hc he => ?_⟩
  · have hend := endOpenFrame_closed hc
    rw [← hend] at hf
    refine (csStart_ended hs hf).trans ?_
    rw [hend]
  · rw [← endOpenFrame_open hc] at he ⊢
    exact csStart_ended hs he
  · rw [← endOpenFrame_open hc] at he ⊢
    exact csStart_faulted hs he

theorem go_closed {s : State} (hc : s.bus.CS = false) : go s = raise .malformedFrame s :=
  if_neg (by simp [hc])

theorem go_faulted {s : State} (hc : s.bus.CS = true) (h : (frameEnd true s).FAULT ≠ none) :
    go s = frameEnd true s := by
  rw [go, if_pos hc, andThen_faulted h]

/-- Settles O16: without an open frame GO faults; else it goes on where the frame end raised no fault. -/
theorem goEndsTheFrameLatched : Obligations.GoEndsTheFrameLatched :=
  fun _ _ => ⟨go_closed, go_ok, go_faulted⟩

/-! ## TX, TX_ADDR and DELAY, rules R76 to R78 -/

/-- A call that needs an open frame without a read window. -/
theorem ite_canSend (s sent refused : State) : (if canSend s then sent else refused) =
    if s.bus.CS = false ∨ s.bus.FRAME_RD ≠ .none then refused else sent := by
  by_cases h : s.bus.CS = false ∨ s.bus.FRAME_RD ≠ .none
  · have hno : ¬ canSend s = true := by
      rw [canSend_eq]
      rintro ⟨hc, hr⟩
      exact h.elim (fun hopen => absurd (hc.symm.trans hopen) nofun) (absurd hr)
    rw [if_pos h, if_neg hno]
  · obtain ⟨hc, hr⟩ := not_or.mp h
    rw [if_neg h, if_pos (canSend_eq.mpr ⟨Bool.eq_true_of_not_eq_false hc, not_not.mp hr⟩)]

/-- Settles O11, by the precondition of TX. -/
theorem txAppendsOneByte : Obligations.TxAppendsOneByte :=
  fun s _ => ite_canSend s _ _

theorem fits24_eq_false {a : U32} : fits24 a = false ↔ 2 ^ 24 ≤ a.toNat := by
  rw [fits24, decide_eq_false_iff_not, Nat.not_lt]

/-- The three bytes of an address are its base-256 digits, rule R50. -/
theorem addrBytes_eq_digits (a : U32) : addrBytes a =
    [BitVec.ofNat 8 (a.toNat / 2 ^ 16), BitVec.ofNat 8 (a.toNat / 2 ^ 8), BitVec.ofNat 8 a.toNat] := by
  simp only [addrBytes, BitVec.extractLsb', Nat.shiftRight_eq_div_pow, Nat.pow_zero, Nat.div_one]

/-- Settles O12: the address is checked before the frame. -/
theorem txAddrAppendsThreeBytes : Obligations.TxAddrAppendsThreeBytes := by
  intro s a
  rw [← addrBytes_eq_digits]
  simp only [← fits24_eq_false]
  exact congrArg (fun t => if fits24 a = false then raise .addrOverflow s else t) (ite_canSend s _ _)

/-- Settles O13, by the precondition of DELAY, which is that of TX. -/
theorem delayOpensTheReadWindow : Obligations.DelayOpensTheReadWindow :=
  fun s => ite_canSend s _ _

/-! ## RX and RX_ID, rules R79 and R80 -/

theorem canFetch_eq_false {op : Byte} {s : State} : canFetch op s = false ↔
    s.bus.CS = false ∨ s.bus.FRAME ≠ [op] ∨ s.bus.FRAME_RD ≠ .opened := by
  simp only [canFetch, Bool.and_eq_false_iff, decide_eq_false_iff_not, or_assoc, ne_eq]

theorem rx_refused {s : State} (h : canFetch s.cfg.OP_RDSR s = false) (k : Byte → State → State) :
    rx k s = raise .malformedFrame s := by
  rw [rx, if_neg (by simp [h])]

theorem rxId_refused {s : State} (h : canFetch s.cfg.OP_RDID s = false) (k : List Byte → State → State) :
    rxId k s = raise .malformedFrame s := by
  rw [rxId, if_neg (by simp [h])]

/-- Settles O14: a status read leaves the bus and the trace to RX. -/
theorem rxReadsTheStatusByte : Obligations.RxReadsTheStatusByte := by
  intro s
  by_cases h : s.bus.CS = false ∨ s.bus.FRAME ≠ [s.cfg.OP_RDSR] ∨ s.bus.FRAME_RD ≠ .opened
  · rw [if_pos h]
    exact rx_refused (canFetch_eq_false.mpr h) fun _ t => t
  · rw [if_neg h]
    simp only [not_or, Bool.not_eq_false, not_not] at h
    obtain ⟨hc, hframe, hr⟩ := h
    obtain ⟨hbus, _, htrace⟩ := statusRead_frame s
    rw [← hbus, ← htrace]
    exact rx_ok hc hframe hr fun _ t => t

/-- Settles O15: the identification bytes are draws. -/
theorem rxIdReadsDrawnBytes : Obligations.RxIdReadsDrawnBytes := by
  intro s
  refine ⟨fun h => rxId_refused (canFetch_eq_false.mpr h) fun _ t => t,
    fun hc hframe hr hb => rxId_busy hc hframe hr hb fun _ t => t, fun hc hframe hr hb => ?_⟩
  refine ⟨(drawBytes s.cfg.RDID_LEN s).1, (drawBytes s.cfg.RDID_LEN s).2.draws, drawBytes_length _ s, ?_⟩
  refine (rxId_ok hc hframe hr hb fun _ t => t).trans ?_
  rw [drawBytes_eq]
  rfl

end Sys2Proof.Machine
end

section
/-! PROOFS. What a frame puts on the wire, the operand checks of SE and PP, and the start and the end of a request:
spec/30_encoding.md rules R84 to R93, spec/41_command_primitives.md rules R100 and R101, spec/44_orchestrators.md rule
R118. -/

namespace Sys2Proof.Machine

/-! ## The wire projection of a frame, rules R84, R85 and R93 -/

/-- Unless `t` holds a fault, the events from `s` to `t` put `wire fs` on the wire in front of any later frames `fs`. -/
def PutsOnWire (wire : List (List Byte) → List (List Byte)) (s t : State) : Prop :=
  t.FAULT = none → ∃ events, t.TRACE = s.TRACE ++ events ∧
    ∀ later, wireFrames (events ++ later) = wire (wireFrames later)

/-- A chip select begins a new frame. -/
def newFrame (frames : List (List Byte)) : List (List Byte) := [] :: frames

theorem consToFrame_append (as bs : List Byte) (frames : List (List Byte)) :
    consToFrame (as ++ bs) frames = consToFrame as (consToFrame bs frames) := by
  cases frames <;> simp [consToFrame]

/-- The events of a trace stand in at least one frame, so no byte in front of them is no change. -/
theorem consToFrame_nil_wireFrames (es : List Event) : consToFrame [] (wireFrames es) = wireFrames es := by
  induction es with
  | nil => rfl
  | cons e es ih =>
    cases e with
    | csStart => rfl
    | tx b => rw [wireFrames, ← consToFrame_append, List.nil_append]
    | txAddr a => rw [wireFrames, ← consToFrame_append, List.nil_append]
    | req r => exact ih
    | res c => exact ih
    | fsSet v => exact ih
    | clkSet d => exact ih
    | delay => exact ih
    | rx v => exact ih
    | rxId ids => exact ih
    | go => exact ih
    | probe p => exact ih
    | progress i => exact ih
    | logId ids => exact ih

theorem PutsOnWire.andThen {wire wire' : List (List Byte) → List (List Byte)} {s t : State} {f : State → State}
    (h : PutsOnWire wire s t) (g : ∀ u, PutsOnWire wire' u (f u)) : PutsOnWire (wire ∘ wire') s (t.andThen f) := by
  rcases andThen_cases t f with ⟨ht, e⟩ | ⟨x, hx, e⟩ <;> rw [e] <;> intro hfault
  · obtain ⟨es, htrace, hes⟩ := h ht
    obtain ⟨fs, ftrace, hfs⟩ := g t hfault
    exact ⟨es ++ fs, by rw [ftrace, htrace, List.append_assoc], fun later => by
      rw [List.append_assoc, hes, hfs, Function.comp_apply]⟩
  · exact absurd (hx.symm.trans hfault) nofun

theorem raise_putsOnWire (wire : List (List Byte) → List (List Byte)) (x : Fault) (s : State) :
    PutsOnWire wire s (raise x s) := nofun

/-- A part of a frame that appends one event. -/
theorem PutsOnWire.event {wire : List (List Byte) → List (List Byte)} {s t : State} (e : Event)
    (ht : t.TRACE = s.TRACE ++ [e]) (he : ∀ later, wireFrames (e :: later) = wire (wireFrames later)) :
    PutsOnWire wire s t :=
  fun _ => ⟨[e], ht, he⟩

/-- A part of a frame that appends one event without a byte. -/
theorem PutsOnWire.quiet {s t : State} (e : Event) (ht : t.TRACE = s.TRACE ++ [e])
    (he : ∀ later, wireFrames (e :: later) = wireFrames later) : PutsOnWire (consToFrame []) s t :=
  .event e ht fun later => (he later).trans (consToFrame_nil_wireFrames later).symm

theorem csStart_putsOnWire (s : State) : PutsOnWire newFrame s (csStart s) := by
  unfold csStart
  split
  · exact raise_putsOnWire _ _ s
  · rcases endOpenFrame_cases s with ⟨x, e⟩ | e <;> rw [e]
    · exact raise_putsOnWire _ x s
    · rcases andThen_cases s fun t => emit .csStart _ with ⟨_, e⟩ | ⟨x, hx, e⟩ <;> rw [e]
      · exact .event .csStart rfl fun _ => rfl
      · exact fun hfault => absurd (hx.symm.trans hfault) nofun

theorem tx_putsOnWire (b : Byte) (s : State) : PutsOnWire (consToFrame [b]) s (tx b s) := by
  unfold tx
  split
  · exact .event (.tx b) rfl fun _ => rfl
  · exact raise_putsOnWire _ _ s

/-- The address bytes are those of the low 24 bits, which the event carries. -/
theorem addrBytes_low24 (a : U32) : addrBytes (BitVec.setWidth 32 (a.extractLsb' 0 24)) = addrBytes a := by
  simp only [addrBytes, List.cons.injEq, and_true]
  refine ⟨?_, ?_, ?_⟩ <;> apply BitVec.eq_of_getLsbD_eq <;> intro i hi <;> interval_cases i <;>
    simp [-BitVec.getLsbD_eq_getElem]

theorem txAddr_putsOnWire (a : U32) (s : State) : PutsOnWire (consToFrame (addrBytes a)) s (txAddr a s) := by
  unfold txAddr
  split
  · exact raise_putsOnWire _ _ s
  split
  · exact .event (.txAddr (a.extractLsb' 0 24)) rfl fun _ => by rw [wireFrames, addrBytes_low24]
  · exact raise_putsOnWire _ _ s

theorem delay_putsOnWire (s : State) : PutsOnWire (consToFrame []) s (delay s) := by
  unfold delay
  split
  · exact .quiet .delay rfl fun _ => rfl
  · exact raise_putsOnWire _ _ s

theorem go_putsOnWire (s : State) : PutsOnWire (consToFrame []) s (go s) := by
  cases hc : s.bus.CS with
  | false => exact go_closed hc ▸ raise_putsOnWire _ _ s
  | true =>
    by_cases hf : (frameEnd true s).FAULT = none
    · rw [go_ok hc hf]
      exact .quiet .go (congrArg (· ++ [Event.go]) (frameEnd_frame true s).2) fun _ => rfl
    · rw [go_faulted hc hf]
      exact fun hfault => absurd hfault hf

theorem rx_setStatus_putsOnWire (s : State) : PutsOnWire (consToFrame []) s (rx setStatus s) := by
  obtain ⟨_, _, htrace⟩ := statusRead_frame s
  rcases rx_cases setStatus s with e | e <;> rw [e]
  · exact raise_putsOnWire _ _ s
  · exact .quiet (.rx (statusRead s).1) (congrArg (· ++ [Event.rx (statusRead s).1]) htrace) fun _ => rfl

theorem rxId_setId_putsOnWire (s : State) : PutsOnWire (consToFrame []) s (rxId setId s) := by
  have htrace : (drawBytes s.cfg.RDID_LEN s).2.TRACE = s.TRACE := by rw [drawBytes_eq]
  rcases rxId_cases setId s with ⟨x, e⟩ | e <;> rw [e]
  · exact raise_putsOnWire _ x s
  · exact .quiet (.rxId (drawBytes s.cfg.RDID_LEN s).1)
      (congrArg (· ++ [Event.rxId (drawBytes s.cfg.RDID_LEN s).1]) htrace) fun _ => rfl

theorem issue_putsOnWire (op : Byte) (s : State) : PutsOnWire (newFrame ∘ consToFrame [op]) s (issue op s) :=
  (csStart_putsOnWire s).andThen (tx_putsOnWire op)

theorem issueAddr_putsOnWire (op : Byte) (a : U32) (s : State) :
    PutsOnWire ((newFrame ∘ consToFrame [op]) ∘ consToFrame (addrBytes a)) s (issueAddr op a s) :=
  (issue_putsOnWire op s).andThen (txAddr_putsOnWire a)

theorem txAll_putsOnWire (bs : List Byte) (s : State) : PutsOnWire (consToFrame bs) s (txAll bs s) := by
  induction bs generalizing s with
  | nil => exact fun _ => ⟨[], by simp [txAll], fun later => (consToFrame_nil_wireFrames later).symm⟩
  | cons b bs ih =>
    have hwire : consToFrame (b :: bs) = consToFrame [b] ∘ consToFrame bs := funext (consToFrame_append [b] bs)
    exact hwire ▸ (tx_putsOnWire b s).andThen ih

/-- A frame instruction that ends without a fault puts on the wire what its sequence of calls does. -/
theorem runs_wireFrames {wire : State → List (List Byte) → List (List Byte)} {f : State → State} {s t : State}
    {frames : List (List Byte)} (hf : ∀ u, PutsOnWire (wire u) u (f u)) (h : runs s f = .next t)
    (ht : t.FAULT = none) (hframes : wire s [[]] = frames) :
    ∃ events, t.TRACE = s.TRACE ++ events ∧ wireFrames events = frames := by
  cases hfault : s.FAULT with
  | some x => simp [runs_fault hfault] at h
  | none =>
    rw [runs_ok hfault] at h
    cases h
    obtain ⟨events, htrace, hwire⟩ := hf s ht
    exact ⟨events, htrace, hframes ▸ by simpa [wireFrames] using hwire []⟩

/-- Settles O32: each instruction's sequence of calls puts its opcode and its operand bytes into one new frame. -/
theorem wireBytesAreTheEncoding : Obligations.WireBytesAreTheEncoding := by
  intro s t i hi h ht
  cases i with
  | rdid =>
    exact runs_wireFrames (fun u => (((issue_putsOnWire _ u).andThen delay_putsOnWire).andThen
      rxId_setId_putsOnWire).andThen go_putsOnWire) h ht rfl
  | wren => exact runs_wireFrames (fun u => (issue_putsOnWire _ u).andThen go_putsOnWire) h ht rfl
  | rdsr =>
    exact runs_wireFrames
      (fun u => ((issue_putsOnWire _ u).andThen delay_putsOnWire).andThen rx_setStatus_putsOnWire) h ht rfl
  | se a => exact runs_wireFrames (fun u => (issueAddr_putsOnWire _ a u).andThen go_putsOnWire) h ht rfl
  | pp a data =>
    exact runs_wireFrames
      (fun u => ((issueAddr_putsOnWire _ a u).andThen (txAll_putsOnWire data)).andThen go_putsOnWire) h ht
      (by simp [newFrame, consToFrame, encode])
  | ce => exact runs_wireFrames (fun u => (issue_putsOnWire _ u).andThen go_putsOnWire) h ht rfl
  | wrsr v =>
    exact runs_wireFrames (fun u => ((issue_putsOnWire _ u).andThen (tx_putsOnWire v)).andThen go_putsOnWire) h ht rfl
  | init => cases hi
  | erase first last => cases hi
  | write dest data => cases hi

/-! ## The operand checks of SE and PP, rules R100, R101 and R116 -/

/-- The address that the flash reads from a frame of SE or PP. -/
theorem frameAddr_addrBytes (op : Byte) {a : U32} (ha : a.toNat < 2 ^ 24) (ds : List Byte) :
    frameAddr (op :: (addrBytes a ++ ds)) = a.toNat :=
  congrArg BitVec.toNat (addrOfBytes_addrBytes (decide_eq_true ha))

theorem frameEffect_se_misaligned {s : State} {op : Byte} {a : U32} (hf : s.bus.FRAME = op :: addrBytes a)
    (ha : a.toNat < 2 ^ 24) (hal : a.toNat % s.launch.FLASH_SECTOR ≠ 0) :
    frameEffect .se s = raise .misaligned s := by
  have haddr : frameAddr (op :: addrBytes a) = a.toNat := frameAddr_addrBytes op ha []
  simp only [frameEffect, hf, haddr]
  rw [if_neg (by simp [addrBytes]), if_pos hal]

theorem frameEffect_se_outOfRange {s : State} {op : Byte} {a : U32} (hf : s.bus.FRAME = op :: addrBytes a)
    (ha : a.toNat < 2 ^ 24) (hal : a.toNat % s.launch.FLASH_SECTOR = 0)
    (hout : s.launch.FLASH_SIZE < a.toNat + s.launch.FLASH_SECTOR) :
    frameEffect .se s = raise .outOfRange s := by
  have haddr : frameAddr (op :: addrBytes a) = a.toNat := frameAddr_addrBytes op ha []
  simp only [frameEffect, hf, haddr]
  rw [if_neg (by simp [addrBytes]), if_neg (not_not.mpr hal), if_pos hout]

theorem frameEffect_pp_outOfRange {s : State} {op : Byte} {a : U32} {ds : List Byte}
    (hf : s.bus.FRAME = op :: (addrBytes a ++ ds)) (ha : a.toNat < 2 ^ 24) (hd : dataFits s.cfg ds = true)
    (hout : ∃ x ∈ programCells s.cfg.PAGE_SIZE a.toNat 0 ds, s.launch.FLASH_SIZE ≤ x.1) :
    frameEffect .pp s = raise .outOfRange s := by
  have hdrop : (op :: (addrBytes a ++ ds)).drop 4 = ds := rfl
  obtain ⟨hlen, _⟩ := of_decide_eq_true hd
  simp only [frameEffect, hf, frameAddr_addrBytes op ha, hdrop]
  rw [if_neg (by simp [hd, addrBytes]; omega), if_pos (by simpa using hout)]

/-- Data that rule R85 or R116 does not allow does not fit. -/
theorem dataFits_eq_false {c : Config} {ds : List Byte}
    (h : ds = [] ∨ c.PAGE_SIZE < ds.length ∨ (c.VARIANT = .byteProgrammable ∧ ds.length ≠ 1)) :
    dataFits c ds = false := by
  refine decide_eq_false ?_
  rintro ⟨hpos, hlen, hone⟩
  rcases h with rfl | hlong | ⟨hbyte, hne⟩
  · simp at hpos
  · omega
  · exact hne (hone hbyte)

/-- The targets of a PP frame are the page targets of its data bytes, rule R105. -/
theorem mem_programCells {p a k : Nat} {ds : List Byte} (hk : k < ds.length) :
    (pageTarget p a k, ds[k]) ∈ programCells p a 0 ds := by
  rw [programCells_eq_mapIdx]
  exact List.mem_mapIdx.mpr ⟨k, hk, by rw [Nat.zero_add]⟩

/-- GO on a frame that the flash refuses records the fault and leaves the flash as before. -/
theorem go_sentFrame_refused {bytes : List Byte} {events : List Event} {x : Fault} {s : State}
    (he : frameEnd true (sentFrame bytes events s) = raise x (sentFrame bytes events s)) :
    (go (sentFrame bytes events s)).FAULT = some x ∧ (go (sentFrame bytes events s)).flash = s.flash := by
  rw [go_sentFrame_faults he]
  exact ⟨rfl, rfl⟩

/-- At an idle, enabled and unprotected flash a mutating frame reaches its effect. -/
theorem frameEnd_sentFrame {s : State} (h : CanOpen s) (hb : s.flash.BUSY = false) (hw : s.flash.WEL = true)
    (hp : s.flash.PROT = false) {k : Command} (hk : isRead k = false) (rest : List Byte) (events : List Event) :
    frameEnd true (sentFrame (s.cfg.opcode k :: rest) events s) =
      frameEffect k (sentFrame (s.cfg.opcode k :: rest) events s) :=
  frameEnd_mutating (s := sentFrame (s.cfg.opcode k :: rest) events s) h.2.1 rfl rfl hb hw (fun _ => hp) hk

/-- Settles O29: an address that does not fit stops both frames at TX_ADDR; else GO meets the command's own checks. -/
theorem seAndPpCheckTheirOperands : Obligations.SeAndPpCheckTheirOperands := by
  intro s a ds h hb hw hp
  have hse := frameEnd_sentFrame h hb hw hp (k := .se) rfl
  have hpp := frameEnd_sentFrame h hb hw hp (k := .pp) rfl
  by_cases ha : a.toNat < 2 ^ 24
  · refine ⟨_, _, exec_se_eq h ha, exec_pp_eq h ha ds, fun hge => absurd ha (Nat.not_lt.mpr hge),
      fun _ hal => ?misaligned, fun _ hal hout => ?seOutOfRange, fun _ hbad => ?malformed,
      fun _ hpos hlen hone ⟨k, hk, hout⟩ => ?ppOutOfRange⟩
    case misaligned => exact go_sentFrame_refused ((hse _ _).trans (frameEffect_se_misaligned rfl ha hal))
    case seOutOfRange => exact go_sentFrame_refused ((hse _ _).trans (frameEffect_se_outOfRange rfl ha hal hout))
    case malformed =>
      have hfit : ¬ operandsFit s.cfg .pp (addrBytes a ++ ds) := fun hfit =>
        absurd (hfit.2.symm.trans (dataFits_eq_false hbad)) nofun
      exact go_sentFrame_refused (frameEnd_malformed (k := .pp) h.2.1 rfl rfl hb hw hp hfit)
    case ppOutOfRange =>
      have hd : dataFits s.cfg ds = true := decide_eq_true ⟨hpos, hlen, hone⟩
      exact go_sentFrame_refused ((hpp _ _).trans
        (frameEffect_pp_outOfRange rfl ha hd ⟨_, mem_programCells hk, hout⟩))
  · have hge : 2 ^ 24 ≤ a.toNat := Nat.not_lt.mp ha
    exact ⟨_, _, exec_se_overflow h hge, exec_pp_overflow h hge ds, fun _ => ⟨rfl, rfl, rfl, rfl, rfl, rfl⟩,
      fun hlt => absurd hlt ha, fun hlt => absurd hlt ha, fun hlt => absurd hlt ha, fun hlt => absurd hlt ha⟩

/-! ## The start and the end of a request, rules R92 and R118 -/

theorem admitRequest_ok {r : Request} {s : State} (hf : s.FAULT = none) (ha : s.ACTIVE = none)
    (hr : requestFits r = true) : admitRequest r s = .next (startRequest r s) := by
  simp only [admitRequest, hf, ha, hr, and_self, if_true]

/-- While a request is in progress no other one is admitted, rule R92. -/
theorem admitRequest_active {s : State} (hf : s.FAULT = none) (ha : s.ACTIVE ≠ none) (r : Request) :
    admitRequest r s = .refused .notAdmitted := by
  simp only [admitRequest, hf, if_neg (fun h : s.ACTIVE = none ∧ requestFits r = true => ha h.1)]

theorem exec_request_active {s : State} {i : Instr} (hi : i.level = .request) (hf : s.FAULT = none)
    (ha : s.ACTIVE ≠ none) : exec i s = .refused .notAdmitted := by
  cases i with
  | init => exact admitRequest_active hf ha .init
  | erase first last => exact admitRequest_active hf ha (.erase first last)
  | write dest data => exact admitRequest_active hf ha (.write dest data)
  | rdid => cases hi
  | wren => cases hi
  | rdsr => cases hi
  | se a => cases hi
  | pp a data => cases hi
  | ce => cases hi
  | wrsr v => cases hi

/-- Settles O33: a request is admitted only while ACTIVE is unset, and the two last labels lead to `endWith`. -/
theorem requestLifecycle : Obligations.RequestLifecycle := by
  intro s hf
  refine ⟨fun ha => ⟨admitRequest_ok hf ha rfl, fun _ _ => admitRequest_ok hf ha rfl,
    fun _ _ hlen => admitRequest_ok hf ha (decide_eq_true hlen)⟩,
    fun ha i hi => exec_request_active hi hf ha, fun c => endWith_eq c s,
    fun hr ha => ⟨fun hpc => ?_, fun hpc hrem => ?_⟩⟩
  · rw [step_active hf hr ha]
    simp only [microStep, hpc]
  · rw [step_active hf hr ha, ← writeFinish_ok hrem]
    simp only [microStep, hpc]

end Sys2Proof.Machine
end

section
/-! PROOFS. WREN and RDID at an idle flash, page targets, and the chunk formula: spec/41_command_primitives.md rules R97,
R98, R101 and R105, spec/44_orchestrators.md rules R120 and R121. -/

namespace Sys2Proof.Machine

/-! ## WREN and RDID, rules R97 and R98 -/

/-- Settles O21: GO ends the frame that ISSUE has sent, and the flash sets WEL. -/
theorem wrenSetsTheLatch : Obligations.WrenSetsTheLatch := by
  intro s h hb
  have hgo := go_wren (s := sentFrame [s.cfg.OP_WREN] [.csStart, .tx s.cfg.OP_WREN] s) h.1 h.2.1 rfl rfl rfl hb
  rw [exec_wren_eq h, hgo]
  simp [sentFrame, emit]

/-- The state after RX_ID in a frame of RDID: the bytes are kept in ID, and the frame is still open. -/
def idRead (ids : List Byte) (draws : Draws) (s : State) : State :=
  { s with
    draws := draws
    work := { s.work with ID := some ids }
    bus := { s.bus with CS := true, FRAME := [s.cfg.OP_RDID], FRAME_RD := .done, RESP := ids }
    TRACE := s.TRACE ++ [.csStart, .tx s.cfg.OP_RDID, .delay, .rxId ids] }

/-- RX_ID in the state that DELAY leaves, rule R80. -/
theorem rxId_readOpened {s : State} (hb : s.flash.BUSY = false) :
    ∃ ids draws, ids.length = s.cfg.RDID_LEN ∧ rxId setId (readOpened s.cfg.OP_RDID s) = idRead ids draws s := by
  have hrx := rxId_ok (s := readOpened s.cfg.OP_RDID s) rfl rfl rfl hb setId
  rw [drawBytes_eq] at hrx
  refine ⟨(drawBytes s.cfg.RDID_LEN (readOpened s.cfg.OP_RDID s)).1,
    (drawBytes s.cfg.RDID_LEN (readOpened s.cfg.OP_RDID s)).2.draws, drawBytes_length _ _, hrx.trans ?_⟩
  simp [setId, emit, fetched, readOpened, idRead]

/-- Settles O22: RX_ID draws the bytes, and the end of a whole RDID frame has no effect on the flash. -/
theorem rdidReadsTheId : Obligations.RdidReadsTheId := by
  intro s h hb
  obtain ⟨ids, draws, hlen, hrx⟩ := rxId_readOpened hb
  have hgo := go_rdid (s := idRead ids draws s) h.1 h.2.1 rfl rfl hb
  refine ⟨ids, draws, hlen, ?_⟩
  rw [exec, execRdid, runs_ok h.1, issue_delay h, andThen_ok (s := readOpened s.cfg.OP_RDID s) h.1, hrx,
    andThen_ok (s := idRead ids draws s) h.1, hgo]
  simp [idRead, emit]

/-! ## Page targets, rules R101 and R105 -/

theorem pageTarget_div {p : Nat} (hp : 1 ≤ p) (a k : Nat) : pageTarget p a k / p = a / p := by
  have hoffset : (a % p + k) % p / p = 0 := Nat.div_eq_of_lt (Nat.mod_lt _ hp)
  rw [pageTarget, ← Nat.mul_div_self_eq_mod_sub_self, Nat.mul_add_div hp, hoffset, Nat.add_zero]

/-- A target wraps only where the run passes the end of the page. -/
theorem pageTarget_of_fits {p a k : Nat} (h : a % p + k < p) : pageTarget p a k = a + k := by
  rw [pageTarget, Nat.mod_eq_of_lt h, ← Nat.add_assoc, Nat.sub_add_cancel (Nat.mod_le a p)]

/-- Data bytes less than a page apart have different targets. -/
theorem pageTarget_injective {p a i j : Nat} (hi : i < p) (hj : j < p) (h : pageTarget p a i = pageTarget p a j) :
    i = j := by
  have hmod : a % p + i ≡ a % p + j [MOD p] := Nat.add_left_cancel h
  exact hmod.add_left_cancel'.eq_of_lt_of_lt hi hj

theorem programCells_targets_nodup (a : Nat) {p : Nat} {ds : List Byte} (h : ds.length ≤ p) :
    ((programCells p a 0 ds).map (·.1)).Nodup := by
  rw [programCells_eq_mapIdx]
  refine List.pairwise_iff_getElem.mpr fun i j hi hj hij => ?_
  simp only [List.length_map, List.length_mapIdx] at hj
  simp only [List.getElem_map, List.getElem_mapIdx, Nat.zero_add]
  exact fun heq => hij.ne (pageTarget_injective (by omega) (by omega) heq)

/-- Settles O20. -/
theorem pageTargetsStayInThePage : Obligations.PageTargetsStayInThePage := by
  refine ⟨fun p a k hp => ⟨rfl, pageTarget_div hp a k, pageTarget_of_fits⟩,
    fun p a ds hlen => ⟨programCells_targets_nodup a hlen, fun k hk => ?_⟩⟩
  simp [programCells_eq_mapIdx, hk]

/-! ## The chunk formula, rules R120 and R121 -/

/-- Settles O46: the chunk formula is the length of a visit in the generic variant, and a run inside a page does not
wrap. -/
theorem chunkStaysInThePage : Obligations.ChunkStaysInThePage := by
  intro c cur rem hv hrem
  have hleft : 1 ≤ rem.toNat := Nat.one_le_iff_ne_zero.mpr fun h0 => hrem (BitVec.eq_of_toNat_eq h0)
  obtain ⟨hpos, hle, hpage, _⟩ : 1 ≤ chunkLength c cur rem ∧ chunkLength c cur rem ≤ rem.toNat ∧
      cur.toNat % c.PAGE_SIZE + chunkLength c cur rem ≤ c.PAGE_SIZE ∧ _ :=
    writeLength_bounds (c := { c with VARIANT := .generic }) hv cur hleft
  exact ⟨hpos, hle, hpage, fun k hk => pageTarget_of_fits (by omega)⟩

end Sys2Proof.Machine
end

section
/-! PROOFS. The steps of INIT, and the operations of a conforming run (ENABLE, the mutating frame, POLL, the loops of
ERASE and WRITE): spec/42_enable_and_poll.md rules R106 to R109 and R112, spec/45_initialization.md rules R131 and R133,
spec/70_reset_and_hazards.md rule R159. -/

namespace Sys2Proof.Machine

/-! ## The middle of a step -/

/-- PHASE stays as it is, or it moves along the table of rule R112. -/
abbrev PhaseMoves (p q : Phase) : Prop :=
  q = p ∨ (p, q) ∈ [(Phase.idle, Phase.enabled), (.enabled, .issued), (.issued, .latched), (.latched, .busy),
    (.busy, .idle)]

/-- A state inside a step that began in phase `p`: all that `Conforms` asks but for the facts of a label, and neither a
fault nor a reset pending. -/
structure Midway (p : Phase) (s : State) : Prop where
  cfg : s.cfg.Valid
  unbounded : s.cfg.POLL_LIMIT = none
  launch : s.launch.Valid
  host : s.PROGRAM.all hostStmt = true
  geom : s.INIT_DONE = true → (sectorSize s).isSome
  line : s.RESET_LINE = none
  fault : s.FAULT = none
  phase : PhaseMoves p s.PHASE

/-- How a step that began in phase `p` ends: in a conforming state, with PHASE moved along its table. -/
abbrev Advances (p : Phase) (t : State) : Prop :=
  Conforms t ∧ PhaseMoves p t.PHASE

/-- What `Midway` reads of a state. -/
def inputs (s : State) :
    Config × Launch × List Stmt × Option Geometry × Bool × Option ResetEvent × Option Fault × Phase :=
  (s.cfg, s.launch, s.PROGRAM, s.GEOM, s.INIT_DONE, s.RESET_LINE, s.FAULT, s.PHASE)

theorem Conforms.midway {s : State} (h : Conforms s) (hf : s.FAULT = none) (hr : s.RESET_LINE = none) :
    Midway s.PHASE s :=
  ⟨h.cfg, h.unbounded, h.launch, h.host, h.geom, hr, hf, Or.inl rfl⟩

section
variable {p : Phase} {s t : State} (h : Midway p s)
include h

theorem Midway.update (e : inputs t = inputs s) : Midway p t := by
  simp only [inputs, Prod.mk.injEq] at e
  obtain ⟨hcfg, hlaunch, hprogram, hgeom, hdone, hline, hfault, hphase⟩ := e
  have hsize : sectorSize t = sectorSize s := by rw [sectorSize, sectorSize, hgeom]
  exact ⟨hcfg ▸ h.cfg, hcfg ▸ h.unbounded, hlaunch ▸ h.launch, hprogram ▸ h.host,
    fun hd => hsize ▸ h.geom (hdone ▸ hd), hline.trans h.line, hfault.trans h.fault, hphase ▸ h.phase⟩

theorem Midway.setPhase {q : Phase} (hq : PhaseMoves p q) : Midway p (setPhase q s) :=
  { h with phase := hq }

/-- The step goes on at a label whose facts hold. -/
theorem Midway.arrives (e : inputs t = inputs s) (hl : AtLabel t) : Advances p t := by
  have ht := h.update e
  exact ⟨⟨ht.cfg, ht.unbounded, ht.launch, ht.host, fun hr => absurd ht.line hr, ht.geom,
    fun x hx => absurd (ht.fault.symm.trans hx) nofun, fun _ => hl⟩, ht.phase⟩

/-- The step raises a fault of rule R159's second list. -/
theorem Midway.raises {x : Fault} (hx : allowedFault x = true) : Advances p (raise x s) :=
  ⟨⟨h.cfg, h.unbounded, h.launch, h.host, fun hr => absurd h.line hr, h.geom,
    fun _ hy => Option.some.inj hy ▸ hx, nofun⟩, h.phase⟩

/-- The step ends the request, rule R118. -/
theorem Midway.ends (c : Result) (hphase : s.PHASE = .idle) (hq : Quiet s) (hu : Unlocked s) :
    Advances p (endWith c s) :=
  h.arrives (by simp only [inputs, hphase]; rfl) ⟨rfl, rfl, hq, hu⟩

end

/-- A bus that is quiet can open a frame. -/
theorem openFrameEnds_of_quiet {s : State} (h : Quiet s) : OpenFrameEnds s :=
  fun hc => Or.inr (Or.inl (h.2 hc).2)

/-- FS_SET(1) leaves a quiet bus quiet. -/
theorem quiet_fsOn {s : State} (h : Quiet s) :
    Quiet { s with bus := { s.bus with FS := true, SPI_FS_OTHER := 0#31 } } :=
  ⟨h.1, fun hc => ⟨rfl, (h.2 hc).2⟩⟩

/-! ## What an operation needs and keeps -/

theorem active_of_serves {o : Operation} {s : State} (h : Serves o s) : s.ACTIVE ≠ none := by
  cases o with
  | unlock => simp [h.1]
  | sector =>
    intro ha
    have hop := h.1
    simp [eraseOperands, ha] at hop
  | page =>
    obtain ⟨_, _, _, _, dest, data, cur, rem, src, chunk, ha, _⟩ := h
    simp [ha]
  | byte =>
    obtain ⟨_, _, _, _, dest, data, cur, rem, src, ha, _⟩ := h
    simp [ha]

/-- Every operation but the unlock has an address, runs after INIT and needs an unprotected flash. -/
theorem address_of_serves {o : Operation} {s : State} (h : Serves o s) (ho : o ≠ .unlock) :
    s.INIT_DONE = true ∧ s.flash.PROT = false ∧ ∃ a, s.work.ADDR = some a := by
  cases o with
  | unlock => exact absurd rfl ho
  | sector =>
    obtain ⟨_, hdone, hprot, _, _, haddr⟩ := h
    exact ⟨hdone, hprot, Option.isSome_iff_exists.mp haddr⟩
  | page =>
    obtain ⟨_, hdone, hprot, haddr, _⟩ := h
    exact ⟨hdone, hprot, Option.isSome_iff_exists.mp haddr⟩
  | byte =>
    obtain ⟨_, hdone, hprot, haddr, _⟩ := h
    exact ⟨hdone, hprot, Option.isSome_iff_exists.mp haddr⟩

/-- An operation keeps what it needs where the flash changes but not its protection. -/
theorem serves_flash {o : Operation} {s : State} (h : Serves o s) (f : Flash)
    (hp : o ≠ .unlock → f.PROT = s.flash.PROT) : Serves o { s with flash := f } := by
  cases o with
  | unlock => exact h
  | sector =>
    obtain ⟨hop, hdone, hprot, hregs⟩ := h
    exact ⟨hop, hdone, (hp nofun).trans hprot, hregs⟩
  | page =>
    obtain ⟨hv, hdone, hprot, hregs⟩ := h
    exact ⟨hv, hdone, (hp nofun).trans hprot, hregs⟩
  | byte =>
    obtain ⟨hv, hdone, hprot, hregs⟩ := h
    exact ⟨hv, hdone, (hp nofun).trans hprot, hregs⟩

/-- The data of an operation's frame is there, and a PP frame's data fits it, rules R101 and R116. -/
theorem data_of_serves {o : Operation} {s : State} (hv : s.cfg.Valid) (h : Serves o s) :
    ∃ ds, operationData o s = some ds ∧ (operationCommand o = .pp → dataFits s.cfg ds = true) := by
  cases o with
  | unlock => exact ⟨_, rfl, nofun⟩
  | sector => exact ⟨[], rfl, nofun⟩
  | page =>
    obtain ⟨hvariant, _, _, _, dest, data, cur, rem, src, chunk, ha, _, _, hsrc, hchunk, hsum, hpos, hle, hpage⟩ := h
    refine ⟨(data.drop src).take chunk.toNat, by simp only [operationData, chunkBytes, writeOperands, ha, hsrc, hchunk],
      fun _ => decide_eq_true ?_⟩
    rw [List.length_take_of_le (by rw [List.length_drop]; omega)]
    exact ⟨hpos, hpage, fun hbyte => absurd (hvariant.symm.trans hbyte) nofun⟩
  | byte =>
    obtain ⟨_, _, _, _, dest, data, cur, rem, src, ha, _, _, hsrc, hsum, hpos⟩ := h
    have hlt : src < data.length := by omega
    obtain ⟨⟨k, hk⟩, _⟩ := hv
    refine ⟨[data[src]], by simp only [operationData, currentByte, writeOperands, ha, hsrc,
      List.getElem?_eq_getElem hlt], fun _ => decide_eq_true ⟨le_rfl, ?_, fun _ => rfl⟩⟩
    exact hk ▸ Nat.two_pow_pos _

/-- The bytes of a frame with an address before its data. -/
theorem frameHead_address {o : Operation} {s : State} {a : U32} (ho : o ≠ .unlock) (ha : s.work.ADDR = some a) :
    frameHead o s = s.cfg.opcode (operationCommand o) :: addrBytes a := by
  cases o with
  | unlock => exact absurd rfl ho
  | sector => rw [frameHead, ha]; rfl
  | page => rw [frameHead, ha]; rfl
  | byte => rw [frameHead, ha]; rfl

/-! ## The frame of the unlock, rule R132 -/

/-- The opcode of the unlock's WRSR: it has no address, and its data byte follows. -/
theorem frameOp_unlock_ok {s : State} (hf : s.FAULT = none) (hc : s.bus.CS = true) (hr : s.bus.FRAME_RD = .none) :
    frameOp .unlock s = { s with
      pc := .frData .unlock 0
      bus := { s.bus with FRAME := s.bus.FRAME ++ [s.cfg.OP_WRSR] }
      TRACE := s.TRACE ++ [.tx s.cfg.OP_WRSR] } := by
  rw [frameOp, tx_ok hc hr, andThen_ok (by exact hf), if_pos rfl]
  rfl

/-- The GO of the unlock's frame at an enabled flash starts its status write, rule R103. -/
theorem frameEnd_unlock {s : State} (hv : s.cfg.Valid) (henabled : Enabled s)
    (hframe : s.bus.FRAME = [s.cfg.OP_WRSR, s.cfg.UNLOCK_SR_VALUE]) (hwindow : s.bus.FRAME_RD = .none) :
    frameEnd true s = startCycle (.writeSR s.cfg.UNLOCK_SR_VALUE) s := by
  obtain ⟨hidle, hwel⟩ := henabled
  rw [frameEnd_mutating (k := .wrsr) hv hframe hwindow hidle hwel nofun rfl]
  simp [frameEffect, hframe]

/-! ## The steps of INIT, rules R131 and R133 -/

section
variable {s : State} (hf : s.FAULT = none)
include hf

/-- CLK_SET of the generic variant. -/
theorem initBegin_generic (hdone : s.INIT_DONE = false) (hv : s.cfg.VARIANT = .generic) :
    initBegin s = { s with
      pc := .initFsOn
      bus := { s.bus with CLKDIV := s.cfg.CLK_DIV_GENERIC }
      TRACE := s.TRACE ++ [.clkSet s.cfg.CLK_DIV_GENERIC] } := by
  rw [initBegin, if_neg (by simp [hdone]), hv]
  exact andThen_ok (s := clkSet s.cfg.CLK_DIV_GENERIC s) hf _

/-- CLK_SET of the byte-programmable variant; the unlock follows. -/
theorem initBegin_byteProgrammable (hdone : s.INIT_DONE = false) (hv : s.cfg.VARIANT = .byteProgrammable) :
    initBegin s = { s with
      pc := .enFs .unlock
      bus := { s.bus with CLKDIV := s.cfg.CLK_DIV_BYTE }
      TRACE := s.TRACE ++ [.clkSet s.cfg.CLK_DIV_BYTE] } := by
  rw [initBegin, if_neg (by simp [hdone]), hv]
  exact andThen_ok (s := clkSet s.cfg.CLK_DIV_BYTE s) hf _

theorem initEnableFs_ok : initEnableFs s = { s with
    pc := .idCs
    bus := { s.bus with FS := true, SPI_FS_OTHER := 0#31 }
    TRACE := s.TRACE ++ [.fsSet true] } := by
  rw [initEnableFs, fsSet_on hf, andThen_ok (by exact hf)]
  rfl

theorem readIdCs_ok (hv : s.cfg.Valid) (hfs : s.bus.FS = true) (ho : OpenFrameEnds s) : readIdCs s = { s with
    pc := .idTx
    bus := { s.bus with CS := true, FRAME := [], FRAME_RD := .none }
    TRACE := s.TRACE ++ [.csStart] } := by
  rw [readIdCs, csStart_ok ⟨hf, hv, hfs, ho⟩, andThen_ok (by exact hf)]
  rfl

theorem readIdTx_ok (hc : s.bus.CS = true) (hb : s.bus.FRAME = []) (hr : s.bus.FRAME_RD = .none) :
    readIdTx s = { s with
      pc := .idDelay
      bus := { s.bus with FRAME := [s.cfg.OP_RDID] }
      TRACE := s.TRACE ++ [.tx s.cfg.OP_RDID] } := by
  rw [readIdTx, tx_ok hc hr, andThen_ok (by exact hf), hb]
  rfl

theorem readIdDelay_ok (hc : s.bus.CS = true) (hr : s.bus.FRAME_RD = .none) : readIdDelay s = { s with
    pc := .idRx
    bus := { s.bus with FRAME_RD := .opened }
    TRACE := s.TRACE ++ [.delay] } := by
  rw [readIdDelay, delay_ok hc hr, andThen_ok (by exact hf)]
  rfl

omit hf in
/-- RX_ID: the drawn bytes stand in ID. -/
theorem readIdRx_ok (hc : s.bus.CS = true) (hb : s.bus.FRAME = [s.cfg.OP_RDID]) (hr : s.bus.FRAME_RD = .opened)
    (hidle : s.flash.BUSY = false) : ∃ ids draws, ids.length = s.cfg.RDID_LEN ∧ readIdRx s = { s with
      pc := .idGo
      draws := draws
      work := { s.work with ID := some ids }
      bus := { s.bus with FRAME_RD := .done, RESP := ids }
      TRACE := s.TRACE ++ [.rxId ids] } := by
  refine ⟨(drawBytes s.cfg.RDID_LEN s).1, (drawBytes s.cfg.RDID_LEN s).2.draws, drawBytes_length _ s, ?_⟩
  rw [readIdRx, rxId_ok hc hb hr hidle, drawBytes_eq]
  rfl

theorem readIdGo_ok (hv : s.cfg.Valid) (hc : s.bus.CS = true) (hb : s.bus.FRAME = [s.cfg.OP_RDID])
    (hidle : s.flash.BUSY = false) : readIdGo s = { s with
      pc := .initFsOff
      bus := { s.bus with CS := false }
      TRACE := s.TRACE ++ [.go] } := by
  rw [readIdGo, go_rdid hf hv hc hb hidle, andThen_ok (by exact hf)]
  rfl

/-- LogId, and FS_SET(0) with no frame open. -/
theorem initDisableFs_ok {ids : List Byte} (hc : s.bus.CS = false) (hv : s.cfg.Valid) (hid : s.work.ID = some ids) :
    initDisableFs s = { s with
      pc := .initProbe
      bus := { s.bus with CS := false, FS := false, SPI_FS_OTHER := 0#31 }
      TRACE := s.TRACE ++ [.logId ids] ++ [.fsSet false] } := by
  have hoff := fsSet_off (s := emit (.logId ids) s) hf hv fun hopen => absurd (hc.symm.trans hopen) nofun
  rw [initDisableFs, hid, need_some, hoff, andThen_ok (by exact hf)]
  rfl

end

/-! ## ENABLE and the mutating frame, rules R106 to R108 -/

section
variable {p : Phase} {o : Operation} {s : State} (h : Midway p s)
include h

theorem enableFs_advances (hserves : Serves o s) (hphase : s.PHASE = .idle) (hquiet : Quiet s) :
    Advances p (enableFs o s) := by
  rw [enableFs_ok h.fault]
  exact h.arrives rfl ⟨hserves, hphase, quiet_fsOn hquiet, rfl⟩

theorem enableCs_advances (hserves : Serves o s) (hphase : s.PHASE = .idle) (hquiet : Quiet s)
    (hfs : s.bus.FS = true) : Advances p (enableCs o s) := by
  rw [enableCs_ok ⟨h.fault, h.cfg, hfs, openFrameEnds_of_quiet hquiet⟩]
  exact h.arrives rfl ⟨hserves, hphase, hquiet.1, hfs, rfl, rfl, rfl⟩

theorem enableTx_advances (hserves : Serves o s) (hphase : s.PHASE = .idle) (hidle : s.flash.BUSY = false)
    (hsending : Sending [] s) : Advances p (enableTx o s) := by
  obtain ⟨hfs, hcs, hframe, hwindow⟩ := hsending
  rw [enableTx_ok h.fault hcs hwindow, hframe]
  exact h.arrives rfl ⟨hserves, hphase, hidle, hfs, hcs, rfl, hwindow⟩

/-- The GO of ENABLE: from here to the frame's own GO the latch is set, rule R108. -/
theorem enableGo_advances (hp : p = .idle) (hserves : Serves o s) (hidle : s.flash.BUSY = false)
    (hsending : Sending [s.cfg.OP_WREN] s) : Advances p (enableGo o s) := by
  obtain ⟨hfs, hcs, hframe, hwindow⟩ := hsending
  rw [enableGo_ok h.fault h.cfg hcs hframe hwindow hidle]
  exact (h.setPhase (q := .enabled) (hp ▸ by decide)).arrives rfl ⟨hserves, rfl, ⟨hidle, rfl⟩, hfs, rfl⟩

theorem frameCs_advances (hserves : Serves o s) (hphase : s.PHASE = .enabled) (henabled : Enabled s)
    (hfs : s.bus.FS = true) (hcs : s.bus.CS = false) : Advances p (frameCs o s) := by
  rw [frameCs_ok ⟨h.fault, h.cfg, hfs, fun hopen => absurd (hcs.symm.trans hopen) nofun⟩]
  exact h.arrives rfl ⟨hserves, hphase, henabled, hfs, rfl, rfl, rfl⟩

/-- After `k` data bytes: the next one, or the frame is issued. -/
theorem afterByte_advances {ds : List Byte} {k : Nat} (hp : p = .enabled) (hserves : Serves o s)
    (hphase : s.PHASE = .enabled) (henabled : Enabled s) (hd : operationData o s = some ds) (hk : k ≤ ds.length)
    (hsending : Sending (frameHead o s ++ ds.take k) s) : Advances p (afterByte o k s) := by
  rcases hk.lt_or_eq with hlt | rfl
  · rw [afterByte_more hd hlt]
    exact h.arrives rfl ⟨hserves, hphase, henabled, ds, (operationData_standing o rfl).trans hd, hlt, hsending⟩
  · rw [afterByte_last hd le_rfl]
    rw [List.take_length] at hsending
    exact (h.setPhase (q := .issued) (hp ▸ by decide)).arrives rfl
      ⟨hserves, rfl, henabled, ds, (operationData_standing o rfl).trans hd, hsending⟩

/-- TX of the opcode: the address follows, or in the unlock's frame the data. -/
theorem frameOp_advances (hserves : Serves o s) (hphase : s.PHASE = .enabled)
    (henabled : Enabled s) (hsending : Sending [] s) : Advances p (frameOp o s) := by
  obtain ⟨hfs, hcs, hframe, hwindow⟩ := hsending
  by_cases ho : o = .unlock
  · subst ho
    rw [frameOp_unlock_ok h.fault hcs hwindow, hframe]
    exact h.arrives rfl ⟨hserves, hphase, henabled, _, rfl, Nat.one_pos, hfs, hcs, rfl, hwindow⟩
  · rw [frameOp_ok ho h.fault hcs hwindow, hframe]
    exact h.arrives rfl ⟨ho, hserves, hphase, henabled, hfs, hcs, rfl, hwindow⟩

/-- TX_ADDR: an address that does not fit is the allowed AddrOverflow, else the data follows. -/
theorem frameAddress_advances (hp : p = .enabled) (ho : o ≠ .unlock) (hserves : Serves o s)
    (hphase : s.PHASE = .enabled) (henabled : Enabled s)
    (hsending : Sending [s.cfg.opcode (operationCommand o)] s) : Advances p (frameAddress o s) := by
  obtain ⟨hfs, hcs, hframe, hwindow⟩ := hsending
  obtain ⟨_, _, a, ha⟩ := address_of_serves hserves ho
  obtain ⟨ds, hd, _⟩ := data_of_serves h.cfg hserves
  rw [frameAddress, ha, need_some]
  cases hfit : fits24 a with
  | false =>
    rw [txAddr, if_pos hfit, andThen_raise]
    exact h.raises rfl
  | true =>
    rw [txAddr_ok hcs hwindow hfit, andThen_ok (by exact h.fault), hframe]
    refine afterByte_advances (h.update (by rfl)) hp hserves hphase henabled ((operationData_standing o rfl).trans hd)
      (Nat.zero_le _) ⟨hfs, hcs, ?_, hwindow⟩
    rw [List.take_zero, List.append_nil]
    exact (frameHead_address ho ha).symm

theorem frameData_advances {ds : List Byte} {k : Nat} (hp : p = .enabled) (hpc : s.pc = .frData o k)
    (hserves : Serves o s) (hphase : s.PHASE = .enabled) (henabled : Enabled s) (hd : operationData o s = some ds)
    (hk : k < ds.length) (hsending : Sending (frameHead o s ++ ds.take k) s) : Advances p (frameData o k s) := by
  obtain ⟨hfs, hcs, hframe, hwindow⟩ := hsending
  have hstep : microStep s = frameData o k s := by simp only [microStep, hpc]
  rw [← hstep, frameData_step hpc h.fault hcs hwindow hd hk]
  exact afterByte_advances (h.update (by rfl)) hp hserves hphase henabled ((operationData_standing o rfl).trans hd) hk
    ⟨hfs, hcs, sentByte_frame hk hframe, hwindow⟩

end

/-- The effect of a whole SE frame: an allowed fault, or the erase starts, rule R100. -/
theorem frameEffect_se_cases {s : State} (hlen : s.bus.FRAME.length = 4) :
    (∃ x, allowedFault x = true ∧ frameEffect .se s = raise x s) ∨
    ∃ a n, frameEffect .se s = startCycle (.erase a n) s := by
  simp only [frameEffect, if_neg (not_not.mpr hlen)]
  split
  · exact Or.inl ⟨_, rfl, rfl⟩
  split
  · exact Or.inl ⟨_, rfl, rfl⟩
  · exact Or.inr ⟨_, _, rfl⟩

/-- The effect of a PP frame with fitting data: an allowed fault, or the program starts, rule R101. -/
theorem frameEffect_pp_cases {s : State} (hlen : 5 ≤ s.bus.FRAME.length)
    (hd : dataFits s.cfg (s.bus.FRAME.drop 4) = true) :
    (∃ x, allowedFault x = true ∧ frameEffect .pp s = raise x s) ∨
    ∃ ws, frameEffect .pp s = startCycle (.program ws) s := by
  simp only [frameEffect]
  rw [if_neg (by simp [hd]; omega)]
  split
  · exact Or.inl ⟨_, rfl, rfl⟩
  · exact Or.inr ⟨_, rfl⟩

/-- The flash accepts an operation's whole frame, rules R58 and R107: it starts the operation's cycle, or it raises an
allowed fault over the frame's address. -/
theorem frameEnd_operation {o : Operation} {s : State} {ds : List Byte} (hv : s.cfg.Valid) (hserves : Serves o s)
    (henabled : Enabled s) (hd : operationData o s = some ds) (hsending : Sending (frameHead o s ++ ds) s) :
    (∃ x, allowedFault x = true ∧ frameEnd true s = raise x s) ∨
    ∃ c, Cycling o (startCycle c s) ∧ frameEnd true s = startCycle c s := by
  obtain ⟨_, _, hframe, hwindow⟩ := hsending
  obtain ⟨es, hes, hfits⟩ := data_of_serves hv hserves
  obtain rfl : ds = es := Option.some.inj (hd.symm.trans hes)
  by_cases ho : o = .unlock
  · subst ho
    obtain rfl := Option.some.inj hd
    exact Or.inr ⟨_, ⟨rfl, rfl⟩, frameEnd_unlock hv henabled hframe hwindow⟩
  obtain ⟨hidle, hwel⟩ := henabled
  obtain ⟨_, hprot, a, ha⟩ := address_of_serves hserves ho
  rw [frameHead_address ho ha, List.cons_append] at hframe
  have hread : isRead (operationCommand o) = false := by cases o <;> rfl
  rw [frameEnd_mutating hv hframe hwindow hidle hwel (fun _ => hprot) hread]
  have hpp (hcommand : operationCommand o = .pp) :
      (∃ x, allowedFault x = true ∧ frameEffect .pp s = raise x s) ∨
      ∃ ws, frameEffect .pp s = startCycle (.program ws) s := by
    have hdata := hfits hcommand
    obtain ⟨hpos, _⟩ := of_decide_eq_true hdata
    refine frameEffect_pp_cases ?_ ?_ <;> rw [hframe]
    · simp [addrBytes]; omega
    · exact hdata
  cases o with
  | unlock => exact absurd rfl ho
  | sector =>
    obtain rfl := Option.some.inj hd
    exact (frameEffect_se_cases (by rw [hframe]; rfl)).imp_right fun ⟨a, n, e⟩ => ⟨.erase a n, fun _ => nofun, e⟩
  | page => exact (hpp rfl).imp_right fun ⟨ws, e⟩ => ⟨.program ws, fun _ => nofun, e⟩
  | byte => exact (hpp rfl).imp_right fun ⟨ws, e⟩ => ⟨.program ws, fun _ => nofun, e⟩

section
variable {p : Phase} {o : Operation} {s : State} (h : Midway p s)
include h

theorem frameGo_advances {ds : List Byte} (hp : p = .issued) (hserves : Serves o s) (henabled : Enabled s)
    (hd : operationData o s = some ds) (hsending : Sending (frameHead o s ++ ds) s) :
    Advances p (frameGo o s) := by
  obtain ⟨hfs, hcs, _⟩ := id hsending
  rcases frameEnd_operation h.cfg hserves henabled hd hsending with ⟨x, hx, e⟩ | ⟨c, hcycling, e⟩
  · rw [frameGo, go_fault hcs e, andThen_raise]
    exact h.raises hx
  · rw [frameGo_ok h.fault hcs e]
    exact (h.setPhase (q := .latched) (hp ▸ by decide)).arrives rfl ⟨hserves, rfl, hcycling, hfs, rfl⟩

end

/-! ## Status reads of a poll, rules R63 and R109 -/

/-- A read that still shows busy counts LEFT down, and that is all. -/
theorem statusRead_flash_busy {s : State} (hb : (statusRead s).2.flash.BUSY = true) :
    (statusRead s).2.flash = { s.flash with LEFT := countDown s.flash.LEFT } := by
  rcases statusRead_cases s with ⟨_, _, e⟩ | ⟨_, _, e⟩ | ⟨hidle, e⟩ <;> rw [e] at hb ⊢
  · exact absurd ((complete_idle s).symm.trans hb) nofun
  · exact absurd (hidle.symm.trans hb) nofun

/-- A read leaves the protection alone, but for the end of a status write. -/
theorem statusRead_prot {s : State} (h : ∀ v, s.flash.PENDING ≠ .writeSR v) :
    (statusRead s).2.flash.PROT = s.flash.PROT := by
  rcases statusRead_cases s with ⟨_, _, e⟩ | ⟨_, _, e⟩ | ⟨_, e⟩ <;> rw [e]
  · exact cycleEffect_prot s h
  · rfl

theorem pending_of_cycling {o : Operation} {s : State} (h : Cycling o s) (ho : o ≠ .unlock) (v : Byte) :
    s.flash.PENDING ≠ .writeSR v := by
  cases o with
  | unlock => exact absurd rfl ho
  | sector => exact h v
  | page => exact h v
  | byte => exact h v

/-- The read that ends the unlock's cycle finds the protection off, rule R132. -/
theorem statusRead_unlocks {s : State} (h : Cycling .unlock s) (hb : (statusRead s).2.flash.BUSY = false) :
    (statusRead s).2.flash.PROT = false := by
  obtain ⟨hbusy, hpending⟩ := h
  rcases statusRead_cases s with ⟨_, _, e⟩ | ⟨_, _, e⟩ | ⟨hidle, _⟩
  · rw [e]
    show (complete s).flash.PROT = false
    rw [complete_flash, hpending]
    exact cycleEffect_unlock_prot s
  · rw [e] at hb
    exact absurd (hbusy.symm.trans hb) nofun
  · exact absurd (hbusy.symm.trans hidle) nofun

/-! ## An initialised machine between two visits -/

/-- An initialised, unprotected machine between two visits of ERASE or WRITE: no frame is under way. -/
structure Ready (s : State) : Prop where
  phase : s.PHASE = .idle
  quiet : Quiet s
  done : s.INIT_DONE = true
  unprotected : s.flash.PROT = false

/-- What WRITE keeps of its buffer: the bytes from index SRC on are the REM bytes left. -/
abbrev Writing (s : State) : Prop :=
  ∃ dest data cur rem src, s.ACTIVE = some (.write dest data) ∧ s.work.CUR = some cur ∧
    s.work.REM = some rem ∧ s.work.SRC = some src ∧ src + rem.toNat = data.length

/-- What an operation needs, for a chunk that is about to start, rules R120 and R122. -/
theorem serves_chunkStarted {s : State} {dest cur rem : U32} {data : List Byte} {src : Nat} (hv : s.cfg.Valid)
    (h : Ready s) (ha : s.ACTIVE = some (.write dest data)) (hcur : s.work.CUR = some cur)
    (hrem : s.work.REM = some rem) (hsrc : s.work.SRC = some src) (hsum : src + rem.toNat = data.length)
    (hleft : 1 ≤ rem.toNat) : Serves (writeOperation s.cfg.VARIANT) (chunkStarted cur rem s) := by
  obtain ⟨hpos, hle, hpage, _⟩ := writeLength_bounds hv cur hleft
  unfold chunkStarted
  cases hvariant : s.cfg.VARIANT with
  | generic =>
    simp only [writeLength, hvariant] at hpos hle hpage
    rw [chunkRegisters, hvariant]
    exact ⟨hvariant, h.done, h.unprotected, rfl, dest, data, cur, rem, src, _, ha, hcur, hrem, hsrc, rfl, hsum,
      by rwa [toNat_ofNat_chunkLength], by rwa [toNat_ofNat_chunkLength],
      by rw [toNat_ofNat_chunkLength]; exact Nat.le_trans (Nat.le_add_left _ _) hpage⟩
  | byteProgrammable =>
    rw [chunkRegisters, hvariant]
    exact ⟨hvariant, h.done, h.unprotected, rfl, dest, data, cur, rem, src, ha, hcur, hrem, hsrc, hsum, hleft⟩

section
variable {p : Phase} {s : State} (h : Midway p s)
include h

/-! ## ERASE, rule R126 -/

theorem eraseDone_advances (hr : Ready s) (ha : s.ACTIVE ≠ none) : Advances p (eraseDone s) := by
  unfold eraseDone
  split
  · rw [fsSet_off h.fault h.cfg (openFrameEnds_of_quiet hr.quiet), andThen_ok (by exact h.fault)]
    exact h.arrives rfl ⟨ha, hr.phase, ⟨hr.quiet.1, nofun⟩, fun _ => hr.unprotected⟩
  · exact h.ends .ok hr.phase hr.quiet fun _ => hr.unprotected

/-- L_SEC: the end, or the next sector, whose address may be the allowed AddrOverflow. -/
theorem eraseLoop_advances (hr : Ready s) (hop : (eraseOperands s).isSome) (hi : s.work.SEC_I.isSome)
    (hlast : s.work.SEC_LAST.isSome) : Advances p (eraseLoop s) := by
  obtain ⟨i, hi⟩ := Option.isSome_iff_exists.mp hi
  obtain ⟨last, hlast⟩ := Option.isSome_iff_exists.mp hlast
  obtain ⟨size, hsize⟩ := Option.isSome_iff_exists.mp (h.geom hr.done)
  have ha : s.ACTIVE ≠ none := fun ha => by simp [eraseOperands, ha] at hop
  rw [eraseLoop, hi, need_some, hlast, need_some]
  split
  · exact eraseDone_advances h hr ha
  · have hemit : Midway p (emit (.progress i) s) := h.update rfl
    rcases eraseSector_cases (s := emit (.progress i) s) h.fault hsize i with ⟨_, e⟩ | ⟨a, _, e⟩ <;> rw [e]
    · exact hemit.raises rfl
    · exact hemit.arrives rfl ⟨⟨hop, hr.done, hr.unprotected, by exact hi ▸ rfl, by exact hlast ▸ rfl, rfl⟩,
        hr.phase, quiet_fsOn hr.quiet, rfl⟩

theorem eraseBegin_advances (hop : (eraseOperands s).isSome) (hphase : s.PHASE = .idle) (hquiet : Quiet s)
    (hunlocked : Unlocked s) : Advances p (eraseBegin s) := by
  unfold eraseBegin
  split
  · exact h.raises rfl
  next hdone =>
  have hdone := Bool.eq_true_of_not_eq_false hdone
  obtain ⟨operands, hoperands⟩ := Option.isSome_iff_exists.mp hop
  rw [hoperands, need_some]
  exact eraseLoop_advances (h.update (by rfl)) ⟨hphase, hquiet, hdone, hunlocked (Or.inl hdone)⟩ hop rfl rfl

/-! ## WRITE, rule R119 -/

/-- L_CHUNK and L_BYTE: L_DONE's FS_SET(0), or the next chunk. -/
theorem writeLoop_advances (hr : Ready s) (hw : Writing s) : Advances p (writeLoop s) := by
  obtain ⟨dest, data, cur, rem, src, ha, hcur, hrem, hsrc, hsum⟩ := hw
  by_cases hzero : rem = 0#32
  · subst hzero
    rw [writeLoop_done h.fault h.cfg (openFrameEnds_of_quiet hr.quiet) hrem]
    exact h.arrives rfl ⟨hrem, by simp [ha], hr.phase, ⟨hr.quiet.1, nofun⟩, fun _ => hr.unprotected⟩
  · have hleft : 1 ≤ rem.toNat := Nat.one_le_iff_ne_zero.mpr fun h0 => hzero (BitVec.eq_of_toNat_eq h0)
    rw [writeLoop_visits h.fault hrem hzero hcur]
    exact h.arrives rfl ⟨serves_chunkStarted h.cfg hr ha hcur hrem hsrc hsum hleft, hr.phase,
      quiet_fsOn hr.quiet, rfl⟩

theorem writeBegin_advances {dest : U32} {data : List Byte} (ha : s.ACTIVE = some (.write dest data))
    (hlen : data.length < 2 ^ 32) (hphase : s.PHASE = .idle) (hquiet : Quiet s) (hunlocked : Unlocked s) :
    Advances p (writeBegin s) := by
  unfold writeBegin
  split
  · exact h.raises rfl
  next hdone =>
  have hdone := Bool.eq_true_of_not_eq_false hdone
  have hoperands : writeOperands s = some (dest, data) := by rw [writeOperands, ha]
  rw [hoperands, need_some]
  refine writeLoop_advances (h.update (by rfl)) ⟨hphase, hquiet, hdone, hunlocked (Or.inl hdone)⟩
    ⟨dest, data, _, _, 0, ha, rfl, rfl, rfl, ?_⟩
  rw [Nat.zero_add, BitVec.toNat_ofNat, Nat.mod_eq_of_lt hlen]

/-- After a chunk of `n` bytes the loop goes on with `n` bytes less. -/
theorem writeNext_advances {dest cur rem n : U32} {data : List Byte} {src : Nat} (hr : Ready s)
    (hn : programmedLength s = some n) (hle : n.toNat ≤ rem.toNat) (ha : s.ACTIVE = some (.write dest data))
    (hcur : s.work.CUR = some cur) (hrem : s.work.REM = some rem) (hsrc : s.work.SRC = some src)
    (hsum : src + rem.toNat = data.length) : Advances p (writeNext s) := by
  rw [writeNext_ok hn hcur hrem hsrc]
  refine writeLoop_advances (h.update (by rfl)) ⟨hr.phase, hr.quiet, hr.done, hr.unprotected⟩
    ⟨dest, data, _, _, _, ha, rfl, rfl, rfl, ?_⟩
  rw [BitVec.toNat_sub_of_le hle]
  omega

/-! ## POLL, rule R109 -/

/-- FS_SET(1) of INIT after the unlock, or after the clock step. -/
theorem initEnableFs_advances (ha : s.ACTIVE = some .init) (hphase : s.PHASE = .idle)
    (hprot : s.flash.PROT = false) (hquiet : Quiet s) : Advances p (initEnableFs s) := by
  rw [initEnableFs_ok h.fault]
  exact h.arrives rfl ⟨ha, hphase, hprot, quiet_fsOn hquiet, rfl⟩

/-- POLL returns to its caller. -/
theorem pollReturn_advances {o : Operation} (hserves : Serves o s) (hphase : s.PHASE = .idle) (hquiet : Quiet s)
    (hprot : o = .unlock → s.flash.PROT = false) : Advances p (pollReturn o s) := by
  cases o with
  | unlock =>
    obtain ⟨ha, _⟩ := hserves
    exact initEnableFs_advances h ha hphase (hprot rfl) hquiet
  | sector =>
    obtain ⟨hop, hdone, hunprotected, hi, hlast, _⟩ := hserves
    obtain ⟨i, hi⟩ := Option.isSome_iff_exists.mp hi
    rw [pollReturn, eraseNext, hi, need_some]
    exact eraseLoop_advances (h.update (by rfl)) ⟨hphase, hquiet, hdone, hunprotected⟩ hop rfl hlast
  | page =>
    obtain ⟨hvariant, hdone, hunprotected, _, dest, data, cur, rem, src, chunk, ha, hcur, hrem, hsrc, hchunk, hsum, _,
      hle, _⟩ := hserves
    have hn : programmedLength s = some chunk := by simp only [programmedLength, hvariant, hchunk]
    exact writeNext_advances h ⟨hphase, hquiet, hdone, hunprotected⟩ hn hle ha hcur hrem hsrc hsum
  | byte =>
    obtain ⟨hvariant, hdone, hunprotected, _, dest, data, cur, rem, src, ha, hcur, hrem, hsrc, hsum, hle⟩ := hserves
    have hn : programmedLength s = some 1#32 := by simp only [programmedLength, hvariant]
    exact writeNext_advances h ⟨hphase, hquiet, hdone, hunprotected⟩ hn hle ha hcur hrem hsrc hsum

variable {o : Operation}

/-- CS_START of an iteration: what the bus holds is the last RDSR frame, or nothing. -/
theorem pollCs_advances (hserves : Serves o s) (hphase : s.PHASE = .busy) (hcycling : Cycling o s)
    (hpolls : s.work.POLLS.isSome) (hfs : s.bus.FS = true) (hopen : OpenFrameEnds s) : Advances p (pollCs o s) := by
  rw [pollCs_ok ⟨h.fault, h.cfg, hfs, hopen⟩]
  exact h.arrives rfl ⟨hserves, hphase, hcycling, hpolls, hfs, rfl, rfl, rfl⟩

theorem pollBegin_advances (hp : p = .latched) (hserves : Serves o s) (hcycling : Cycling o s)
    (hfs : s.bus.FS = true) (hcs : s.bus.CS = false) : Advances p (pollBegin o s) :=
  pollCs_advances (s := setPhase .busy { s with work := { s.work with POLLS := some 0 } })
    ((h.setPhase (q := .busy) (hp ▸ by decide)).update (by rfl)) hserves rfl hcycling rfl hfs
    fun hopen => absurd (hcs.symm.trans hopen) nofun

theorem pollTx_advances (hserves : Serves o s) (hphase : s.PHASE = .busy) (hcycling : Cycling o s)
    (hpolls : s.work.POLLS.isSome) (hsending : Sending [] s) : Advances p (pollTx o s) := by
  obtain ⟨hfs, hcs, hframe, hwindow⟩ := hsending
  rw [pollTx_ok h.fault hcs hframe hwindow]
  exact h.arrives rfl ⟨hserves, hphase, hcycling, hpolls, hfs, hcs, rfl, hwindow⟩

theorem pollDelay_advances (hserves : Serves o s) (hphase : s.PHASE = .busy) (hcycling : Cycling o s)
    (hpolls : s.work.POLLS.isSome) (hsending : Sending [s.cfg.OP_RDSR] s) : Advances p (pollDelay o s) := by
  obtain ⟨hfs, hcs, hframe, hwindow⟩ := hsending
  rw [pollDelay_ok h.fault hcs hwindow]
  exact h.arrives rfl ⟨hserves, hphase, hcycling, hpolls, hfs, hcs, hframe, rfl⟩

/-- The status read: STATUS says whether the flash is still busy, and if not, the unlock has taken effect. -/
theorem pollRx_advances (hserves : Serves o s) (hphase : s.PHASE = .busy) (hcycling : Cycling o s)
    (hpolls : s.work.POLLS.isSome) (hfs : s.bus.FS = true) (hcs : s.bus.CS = true)
    (hframe : s.bus.FRAME = [s.cfg.OP_RDSR]) (hwindow : s.bus.FRAME_RD = .opened) : Advances p (pollRx o s) := by
  have hserves' := serves_flash hserves (statusRead s).2.flash fun ho =>
    statusRead_prot (pending_of_cycling hcycling ho)
  have hcycling' : (statusRead s).2.flash.BUSY = true → Cycling o { s with flash := (statusRead s).2.flash } := by
    intro hb
    rw [statusRead_flash_busy hb]
    exact hcycling
  rw [pollRx_ok hcs hframe hwindow, statusRead_eq]
  refine h.arrives rfl ⟨hserves', hphase, hpolls, hfs, hframe, ⟨_, rfl, busyFlag_statusRead s⟩, hcycling', ?_⟩
  rintro rfl
  exact statusRead_unlocks hcycling

/-- The tests of POLL in its unbounded mode: it returns over an idle flash, or the next iteration begins. -/
theorem pollTest_advances (hp : p = .busy) (hserves : Serves o s) (hphase : s.PHASE = .busy)
    (hpolls : s.work.POLLS.isSome) (hfs : s.bus.FS = true) (hframe : s.bus.FRAME = [s.cfg.OP_RDSR])
    (hstatus : ∃ v, s.work.STATUS = some v ∧ busyFlag v = s.flash.BUSY) (hcycling : s.flash.BUSY = true → Cycling o s)
    (hprot : o = .unlock → s.flash.BUSY = false → s.flash.PROT = false) : Advances p (pollTest o s) := by
  obtain ⟨v, hv, hflag⟩ := hstatus
  obtain ⟨n, hn⟩ := Option.isSome_iff_exists.mp hpolls
  cases hb : s.flash.BUSY with
  | false =>
    rw [pollTest_return hv hn (hflag.trans hb)]
    exact pollReturn_advances ((h.setPhase (q := .idle) (hp ▸ by decide)).update (by rfl)) hserves rfl
      ⟨hb, fun _ => ⟨hfs, hframe⟩⟩ fun ho => hprot ho hb
  | true =>
    rw [pollTest_again hv hn (hflag.trans hb) (atLimit_unbounded h.unbounded _)]
    exact pollCs_advances (h.update (by rfl)) hserves hphase (hcycling hb) rfl hfs fun _ => Or.inr (Or.inl hframe)

end

end Sys2Proof.Machine
end

section
/-! PROOFS. INIT and every other step of a conforming run: spec/42_enable_and_poll.md rule R112,
spec/45_initialization.md rules R131 to R137, spec/70_reset_and_hazards.md rule R159. -/

namespace Sys2Proof.Machine

/-! ## INIT, rules R131 to R137 -/

section
variable {p : Phase} {s : State} (h : Midway p s)
include h

/-- INIT's entry: the allowed ReInit, or the clock step. -/
theorem initBegin_advances (ha : s.ACTIVE = some .init) (hphase : s.PHASE = .idle) (hquiet : Quiet s)
    (hunlocked : Unlocked s) : Advances p (initBegin s) := by
  cases hdone : s.INIT_DONE with
  | true =>
    rw [initBegin, if_pos hdone]
    exact h.raises rfl
  | false =>
    cases hv : s.cfg.VARIANT with
    | generic =>
      rw [initBegin_generic h.fault hdone hv]
      exact h.arrives rfl ⟨ha, hphase, hunlocked (Or.inr hv), hquiet⟩
    | byteProgrammable =>
      rw [initBegin_byteProgrammable h.fault hdone hv]
      exact h.arrives rfl ⟨⟨ha, hdone, hv⟩, hphase, hquiet⟩

variable (ha : s.ACTIVE = some .init) (hphase : s.PHASE = .idle) (hprot : s.flash.PROT = false)
include ha hphase hprot

theorem readIdCs_advances (hquiet : Quiet s) (hfs : s.bus.FS = true) : Advances p (readIdCs s) := by
  rw [readIdCs_ok h.fault h.cfg hfs (openFrameEnds_of_quiet hquiet)]
  exact h.arrives rfl ⟨ha, hphase, hprot, hquiet.1, hfs, rfl, rfl, rfl⟩

variable (hidle : s.flash.BUSY = false)
include hidle

theorem readIdTx_advances (hsending : Sending [] s) : Advances p (readIdTx s) := by
  obtain ⟨hfs, hcs, hframe, hwindow⟩ := hsending
  rw [readIdTx_ok h.fault hcs hframe hwindow]
  exact h.arrives rfl ⟨ha, hphase, hprot, hidle, hfs, hcs, rfl, hwindow⟩

theorem readIdDelay_advances (hsending : Sending [s.cfg.OP_RDID] s) : Advances p (readIdDelay s) := by
  obtain ⟨hfs, hcs, hframe, hwindow⟩ := hsending
  rw [readIdDelay_ok h.fault hcs hwindow]
  exact h.arrives rfl ⟨ha, hphase, hprot, hidle, hfs, hcs, hframe, rfl⟩

theorem readIdRx_advances (hcs : s.bus.CS = true) (hframe : s.bus.FRAME = [s.cfg.OP_RDID])
    (hwindow : s.bus.FRAME_RD = .opened) : Advances p (readIdRx s) := by
  obtain ⟨ids, draws, _, e⟩ := readIdRx_ok hcs hframe hwindow hidle
  rw [e]
  exact h.arrives rfl ⟨ha, hphase, hprot, hidle, hcs, hframe, rfl⟩

theorem readIdGo_advances (hcs : s.bus.CS = true) (hframe : s.bus.FRAME = [s.cfg.OP_RDID])
    (hid : s.work.ID.isSome) : Advances p (readIdGo s) := by
  rw [readIdGo_ok h.fault h.cfg hcs hframe hidle]
  exact h.arrives rfl ⟨ha, hphase, hprot, hidle, rfl, hid⟩

theorem initDisableFs_advances (hcs : s.bus.CS = false) (hid : s.work.ID.isSome) : Advances p (initDisableFs s) := by
  obtain ⟨ids, hids⟩ := Option.isSome_iff_exists.mp hid
  rw [initDisableFs_ok h.fault hcs h.cfg hids]
  exact h.arrives rfl ⟨ha, hphase, hprot, hidle, rfl⟩

omit ha in
/-- The tests of the Probe's answer: InitError, the allowed InvalidGeometry, or the store of a valid geometry. -/
theorem initStore_advances (hcs : s.bus.CS = false) : Advances p (initStore s) := by
  have hquiet : Quiet s := ⟨hidle, fun hopen => absurd (hcs.symm.trans hopen) nofun⟩
  unfold initStore
  split
  · exact h.ends _ hphase hquiet fun _ => hprot
  next g _ =>
  split
  · exact h.raises rfl
  next hg =>
  obtain ⟨hcount, _, _, hmod⟩ := of_decide_eq_true (Bool.eq_true_of_not_eq_false hg)
  have hsize : (sectorSize { s with GEOM := some g, INIT_DONE := true }).isSome := by
    simp [sectorSize, hcount, hmod]
  have hstored : Midway p { s with GEOM := some g, INIT_DONE := true } := { h with geom := fun _ => hsize }
  exact hstored.ends _ hphase hquiet fun _ => hprot

end

/-! ## The step of a request -/

/-- A step of a request in a conforming run: each label's facts are what its step needs. -/
theorem microStep_advances {s : State} (h : Conforms s) (hf : s.FAULT = none) (hr : s.RESET_LINE = none)
    (ha : s.ACTIVE ≠ none) : Advances s.PHASE (microStep s) := by
  have hm := h.midway hf hr
  have hl := h.running hf
  revert hl
  unfold AtLabel microStep
  cases hpc : s.pc with
  | haltIdle => exact fun ⟨hnone, _⟩ => absurd hnone ha
  | initEntry => exact fun ⟨hinit, hphase, hquiet, hunlocked⟩ => initBegin_advances hm hinit hphase hquiet hunlocked
  | enFs o => exact fun ⟨hserves, hphase, hquiet⟩ => enableFs_advances hm hserves hphase hquiet
  | enCs o => exact fun ⟨hserves, hphase, hquiet, hfs⟩ => enableCs_advances hm hserves hphase hquiet hfs
  | enTx o => exact fun ⟨hserves, hphase, hidle, hsending⟩ => enableTx_advances hm hserves hphase hidle hsending
  | enGo o => exact fun ⟨hserves, hphase, hidle, hsending⟩ => enableGo_advances hm hphase hserves hidle hsending
  | frCs o =>
    exact fun ⟨hserves, hphase, henabled, hfs, hcs⟩ => frameCs_advances hm hserves hphase henabled hfs hcs
  | frOp o =>
    exact fun ⟨hserves, hphase, henabled, hsending⟩ => frameOp_advances hm hserves hphase henabled hsending
  | frAddr o =>
    exact fun ⟨ho, hserves, hphase, henabled, hsending⟩ =>
      frameAddress_advances hm hphase ho hserves hphase henabled hsending
  | frData o k =>
    exact fun ⟨hserves, hphase, henabled, _, hd, hk, hsending⟩ =>
      frameData_advances hm hphase hpc hserves hphase henabled hd hk hsending
  | frGo o =>
    exact fun ⟨hserves, hphase, henabled, _, hd, hsending⟩ => frameGo_advances hm hphase hserves henabled hd hsending
  | pollStart o =>
    exact fun ⟨hserves, hphase, hcycling, hfs, hcs⟩ => pollBegin_advances hm hphase hserves hcycling hfs hcs
  | pollTx o =>
    exact fun ⟨hserves, hphase, hcycling, hpolls, hsending⟩ =>
      pollTx_advances hm hserves hphase hcycling hpolls hsending
  | pollDelay o =>
    exact fun ⟨hserves, hphase, hcycling, hpolls, hsending⟩ =>
      pollDelay_advances hm hserves hphase hcycling hpolls hsending
  | pollRx o =>
    exact fun ⟨hserves, hphase, hcycling, hpolls, hfs, hcs, hframe, hwindow⟩ =>
      pollRx_advances hm hserves hphase hcycling hpolls hfs hcs hframe hwindow
  | pollTest o =>
    exact fun ⟨hserves, hphase, hpolls, hfs, hframe, hstatus, hcycling, hprot⟩ =>
      pollTest_advances hm hphase hserves hphase hpolls hfs hframe hstatus hcycling hprot
  | initFsOn => exact fun ⟨hinit, hphase, hprot, hquiet⟩ => initEnableFs_advances hm hinit hphase hprot hquiet
  | idCs => exact fun ⟨hinit, hphase, hprot, hquiet, hfs⟩ => readIdCs_advances hm hinit hphase hprot hquiet hfs
  | idTx =>
    exact fun ⟨hinit, hphase, hprot, hidle, hsending⟩ => readIdTx_advances hm hinit hphase hprot hidle hsending
  | idDelay =>
    exact fun ⟨hinit, hphase, hprot, hidle, hsending⟩ => readIdDelay_advances hm hinit hphase hprot hidle hsending
  | idRx =>
    exact fun ⟨hinit, hphase, hprot, hidle, _, hcs, hframe, hwindow⟩ =>
      readIdRx_advances hm hinit hphase hprot hidle hcs hframe hwindow
  | idGo =>
    exact fun ⟨hinit, hphase, hprot, hidle, hcs, hframe, hid⟩ =>
      readIdGo_advances hm hinit hphase hprot hidle hcs hframe hid
  | initFsOff =>
    exact fun ⟨hinit, hphase, hprot, hidle, hcs, hid⟩ => initDisableFs_advances hm hinit hphase hprot hidle hcs hid
  | initProbe => exact fun hl => hm.arrives (by rfl) hl
  | initStore => exact fun ⟨_, hphase, hprot, hidle, hcs⟩ => initStore_advances hm hphase hprot hidle hcs
  | eraseEntry => exact fun ⟨hop, hphase, hquiet, hunlocked⟩ => eraseBegin_advances hm hop hphase hquiet hunlocked
  | eraseEnd => exact fun ⟨_, hphase, hquiet, hunlocked⟩ => hm.ends .ok hphase hquiet hunlocked
  | writeEntry =>
    exact fun ⟨⟨_, _, hwrite, hlen⟩, hphase, hquiet, hunlocked⟩ =>
      writeBegin_advances hm hwrite hlen hphase hquiet hunlocked
  | writeEnd =>
    intro ⟨hrem, _, hphase, hquiet, hunlocked⟩
    exact writeFinish_ok hrem ▸ hm.ends .ok hphase hquiet hunlocked

/-! ## Moves between requests, and resets -/

/-- Between requests the machine is at HALT_IDLE: every other label serves a request. -/
theorem halted_of_inactive {s : State} (hl : AtLabel s) (ha : s.ACTIVE = none) :
    s.PHASE = .idle ∧ Quiet s ∧ Unlocked s := by
  have hserves (o : Operation) : ¬ Serves o s := fun h => active_of_serves h ha
  revert hl
  unfold AtLabel
  cases s.pc with
  | haltIdle => exact fun ⟨_, hphase, hquiet, hunlocked⟩ => ⟨hphase, hquiet, hunlocked⟩
  | _ => simp [ha, hserves, eraseOperands]

/-- The Start step of a request, rules R90 and R118. -/
theorem startRequest_advances {p : Phase} {s : State} (h : Midway p s) {r : Request} (hfits : requestFits r = true)
    (hphase : s.PHASE = .idle) (hquiet : Quiet s) (hunlocked : Unlocked s) : Advances p (startRequest r s) := by
  refine h.arrives rfl ?_
  cases r with
  | init => exact ⟨rfl, hphase, hquiet, hunlocked⟩
  | erase first last => exact ⟨rfl, hphase, hquiet, hunlocked⟩
  | write dest data => exact ⟨⟨dest, data, rfl, of_decide_eq_true hfits⟩, hphase, hquiet, hunlocked⟩

theorem admitRequest_advances {p : Phase} {s t : State} (h : Midway p s) {r : Request} (hphase : s.PHASE = .idle)
    (hquiet : Quiet s) (hunlocked : Unlocked s) (hstep : admitRequest r s = .next t) : Advances p t := by
  rcases admit_cases r s with ⟨_, _, hfits, e⟩ | ⟨x, _, e⟩ | e <;> rw [e] at hstep <;> cases hstep
  exact startRequest_advances h hfits hphase hquiet hunlocked

/-- A window read in bit-bang mode is the allowed ReadWhileCommandMode; any other touches only HOST_BYTE and draws. -/
theorem hostRead_advances {p : Phase} {x : U32} {s t : State} (h : Midway p s) (hl : AtLabel s)
    (hstep : hostRead x s = .next t) : Advances p t := by
  unfold hostRead at hstep
  split at hstep
  · cases hstep
    exact h.raises rfl
  split at hstep
  · cases hstep
  split at hstep <;> cases hstep <;> exact h.arrives rfl hl

/-- A move of a Host that obeys rule R145: a request or a window read. -/
theorem step_program_advances {s t : State} (h : Conforms s) (hidle : Idle s) {q : Stmt} {rest : List Stmt}
    (hp : s.PROGRAM = q :: rest) (hstep : step s = .next t) : Advances s.PHASE t := by
  obtain ⟨hf, ha, hr⟩ := id hidle
  have hl := h.running hf
  obtain ⟨hphase, hquiet, hunlocked⟩ := halted_of_inactive hl ha
  have hhost := h.host
  rw [hp, List.all_cons, Bool.and_eq_true] at hhost
  obtain ⟨hq, hrest⟩ := hhost
  have hm : Midway s.PHASE { s with PROGRAM := rest } := { h.midway hf hr with host := hrest }
  cases q with
  | frame bytes => cases hq
  | call c => cases hq
  | read x =>
    rw [step_program_done hidle hp rfl] at hstep
    exact hostRead_advances hm hl hstep
  | request bytes =>
    cases hd : decodeRequest bytes with
    | error e => simp [hostStmt, hd] at hq
    | ok i =>
      obtain ⟨_, _, hlevel⟩ := encode_of_decodeRequest (c := s.cfg) hd
      rw [step_program_ok hidle hp hd] at hstep
      cases i with
      | init => exact admitRequest_advances hm hphase hquiet hunlocked hstep
      | erase first last => exact admitRequest_advances hm hphase hquiet hunlocked hstep
      | write dest data => exact admitRequest_advances hm hphase hquiet hunlocked hstep
      | _ => cases hlevel

theorem step_idle_advances {s t : State} (h : Conforms s) (hidle : Idle s) (hstep : step s = .next t) :
    Advances s.PHASE t := by
  cases hp : s.PROGRAM with
  | nil =>
    rw [step_program_nil hidle hp] at hstep
    cases hstep
    exact ⟨h, Or.inl rfl⟩
  | cons q rest => exact step_program_advances h hidle hp hstep

/-- A reset between requests, rules R154 and R155: a reset of the sequencer alone finds the flash idle. -/
theorem applyReset_conforms {e : ResetEvent} {s : State} (h : Conforms s) (hquiet : Quiet s) (hunlocked : Unlocked s) :
    Conforms (applyReset e s) := by
  obtain ⟨hidle, _⟩ := hquiet
  have hsequencer : Conforms (resetSequencer s) :=
    { cfg := h.cfg, unbounded := h.unbounded, launch := h.launch, host := h.host, reset := fun _ => rfl, geom := nofun,
      faulted := nofun
      running := fun _ => ⟨rfl, rfl, ⟨hidle, nofun⟩, fun hu => hunlocked (hu.imp_left nofun)⟩ }
  cases e with
  | sequencer => exact hsequencer
  | powerOn contents =>
    exact { hsequencer with
      running := fun _ => ⟨rfl, rfl, ⟨rfl, nofun⟩, powerOn_unlocked s.cfg s.launch contents⟩ }

theorem applyReset_phase (e : ResetEvent) (s : State) : (applyReset e s).PHASE = .idle := by
  cases e <;> rfl

/-! ## Every step -/

/-- At HALT_IDLE nothing is in progress. -/
theorem inactive_of_halted {s : State} (hl : AtLabel s) (hpc : s.pc = .haltIdle) : s.ACTIVE = none := by
  rw [AtLabel, hpc] at hl
  exact hl.1

theorem step_advances {s t : State} (h : Conforms s) (hstep : step s = .next t) : Advances s.PHASE t := by
  have hf := fault_none_of_step hstep
  have hl := h.running hf
  rcases Option.eq_none_or_eq_some s.RESET_LINE with hr | ⟨e, hr⟩
  · by_cases ha : s.ACTIVE = none
    · exact step_idle_advances h ⟨hf, ha, hr⟩ hstep
    · rw [step_active hf hr ha] at hstep
      cases hstep
      exact microStep_advances h hf hr ha
  · have ha := inactive_of_halted hl (h.reset (by simp [hr]))
    obtain ⟨hphase, hquiet, hunlocked⟩ := halted_of_inactive hl ha
    rw [step_reset hf hr] at hstep
    cases hstep
    exact ⟨applyReset_conforms h hquiet hunlocked, Or.inl ((applyReset_phase e s).trans hphase.symm)⟩

/-- The protocol faults of rule R159's first list are not allowed in a conforming state. -/
theorem protocolFaults_not_allowed :
    ∀ fault ∈ [some Fault.commandWhileBusy, some .unknownOpcode, some .unlatchedCommand, some .noWriteEnable,
      some .malformedFrame, some .notCommandMode, some .readUnset, some .protectedArray],
    fault.all allowedFault = false := by
  decide

/-- Settles O55: each step's parts meet their preconditions by the facts of its label. -/
theorem everyStepConforms : Obligations.EveryStepConforms := by
  intro s t h hstep
  obtain ⟨ht, _⟩ := step_advances h hstep
  refine ⟨ht, fun hmem => ?_⟩
  have hallowed : t.FAULT.all allowedFault = true := (Option.all_eq_true _ _).mpr ht.faulted
  exact absurd (hallowed.symm.trans (protocolFaults_not_allowed _ hmem)) nofun

/-! ## PHASE, rule R112 -/

/-- PHASE is ENABLED only from ENABLE's GO to the last byte of the mutating frame, where the latch is set. -/
theorem enabled_of_phase {s : State} (hl : AtLabel s) (hphase : s.PHASE = .enabled) : Enabled s := by
  revert hl
  unfold AtLabel
  cases s.pc with
  | frCs o => exact fun ⟨_, _, henabled, _⟩ => henabled
  | frOp o => exact fun ⟨_, _, henabled, _⟩ => henabled
  | frAddr o => exact fun ⟨_, _, _, henabled, _⟩ => henabled
  | frData o k => exact fun ⟨_, _, henabled, _⟩ => henabled
  | _ => simp [hphase]

/-- Settles O57: the moves of PHASE along every step of a conforming run, and the facts of the labels. -/
theorem phaseFollowsItsTable : Obligations.PhaseFollowsItsTable := by
  refine ⟨fun s t h _ hstep => (step_advances h hstep).2, fun s h hf => ⟨fun hphase => ?_, fun ha => ?_⟩⟩
  · exact (enabled_of_phase (h.running hf) hphase).2
  · exact (halted_of_inactive (h.running hf) ha).1

end Sys2Proof.Machine
end

section
/-! PROOFS. The number of status reads of a POLL, and INIT of the byte-programmable variant:
spec/42_enable_and_poll.md rules R109 to R113 and R123, spec/45_initialization.md rules R131, R132 and R137. -/

namespace Sys2Proof.Machine

/-! ## Busy durations -/

/-- What is left of a busy duration after `m` status reads that showed busy, rule R63. -/
def leftAfter : Duration → Nat → Duration
  | .reads n, m => .reads (n - m)
  | .forever, _ => .forever

/-- A cycle of this duration shows busy in `m` status reads. -/
abbrev Outlasts (d : Duration) (m : Nat) : Prop :=
  d = .forever ∨ ∃ n, d = .reads n ∧ m ≤ n

theorem leftAfter_zero (d : Duration) : leftAfter d 0 = d := by
  cases d <;> rfl

theorem countDown_leftAfter (d : Duration) (m : Nat) : countDown (leftAfter d m) = leftAfter d (m + 1) := by
  cases d <;> rfl

theorem leftAfter_ne_zero {d : Duration} {m : Nat} (h : Outlasts d (m + 1)) : leftAfter d m ≠ .reads 0 := by
  rcases h with rfl | ⟨n, rfl, hle⟩
  · exact nofun
  · simp only [leftAfter, ne_eq, Duration.reads.injEq]
    omega

theorem Outlasts.mono {d : Duration} {m n : Nat} (h : Outlasts d n) (hle : m ≤ n) : Outlasts d m :=
  h.imp_right fun ⟨k, hk, hn⟩ => ⟨k, hk, hle.trans hn⟩

/-! ## The iterations of POLL, rule R109 -/

/-- The state in which an iteration that begins in `s` makes its status read. -/
def pollOpened (o : Operation) (s : State) : State :=
  { s with
    pc := .pollRx o
    bus := { s.bus with CS := true, FRAME := [s.cfg.OP_RDSR], FRAME_RD := .opened }
    TRACE := s.TRACE ++ [.csStart] ++ [.tx s.cfg.OP_RDSR] ++ [.delay] }

theorem pollRx_bus {s : State} (o : Operation) (hc : s.bus.CS = true) (hf : s.bus.FRAME = [s.cfg.OP_RDSR])
    (hr : s.bus.FRAME_RD = .opened) :
    (pollRx o s).bus.CS = true ∧ (pollRx o s).bus.CLKDIV = s.bus.CLKDIV := by
  rw [pollRx_ok hc hf hr, statusRead_eq]
  exact ⟨hc, rfl⟩

/-- The four steps of an iteration, from the step of its CS_START on. -/
theorem pollIteration_run {s u : State} {o : Operation} (h : Running s) (hstep : microStep s = pollCs o u)
    (hu : standing u = standing s) (hopen : OpenFrameEnds u) :
    ∃ t, Sys2Proof.core.run 4 s = .next t ∧ PollReads o u t ∧ t.bus.CS = true ∧ t.bus.CLKDIV = u.bus.CLKDIV := by
  obtain ⟨hf, hr, ha, hv, hfs⟩ := h.of_standing hu
  have hreads := pollRx_reads o (s := pollOpened o u) rfl rfl rfl
  refine ⟨pollRx o (pollOpened o u), ?_, { hreads with }, pollRx_bus o (s := pollOpened o u) rfl rfl rfl⟩
  refine run_active h.fault h.line h.active (hstep.trans (pollCs_ok ⟨hf, hv, hfs, hopen⟩ o)) ?_
  refine run_active hf hr ha (pollTx_ok hf rfl rfl rfl) ?_
  refine run_active hf hr ha (pollDelay_ok hf rfl rfl) ?_
  exact run_active hf hr ha rfl rfl

/-- The poll of `s` at the tests in `t`, with `m` reads counted, all of them busy, and one more read done. -/
structure PolledAt (o : Operation) (m : Nat) (s t : State) : Prop where
  run : Sys2Proof.core.run (4 * (m + 1)) s = .next t
  pc : t.pc = .pollTest o
  standing : standing t = standing s
  polls : t.work.POLLS = some m
  status : ∃ v, t.work.STATUS = some v ∧ busyFlag v = t.flash.BUSY
  cs : t.bus.CS = true
  frame : t.bus.FRAME = [s.cfg.OP_RDSR]
  clkdiv : t.bus.CLKDIV = s.bus.CLKDIV
  flash : ∃ r : State, r.cfg = s.cfg ∧ r.flash = { s.flash with LEFT := leftAfter s.flash.LEFT m } ∧
    t.flash = (statusRead r).2.flash

section
variable {o : Operation} {m : Nat} {s t : State} (h : PolledAt o m s t) (hbusy : s.flash.BUSY = true)
include h hbusy

/-- The flash after a read of a cycle that is still busy. -/
theorem PolledAt.flash_busy (hlasts : Outlasts s.flash.LEFT (m + 1)) :
    t.flash = { s.flash with LEFT := leftAfter s.flash.LEFT (m + 1) } := by
  obtain ⟨r, _, hr, ht⟩ := h.flash
  have hleft : r.flash.LEFT ≠ .reads 0 := by rw [hr]; exact leftAfter_ne_zero hlasts
  rw [ht, statusRead_flash_left (by rw [hr]; exact hbusy) hleft, hr, countDown_leftAfter]

/-- The flash after the read that completes the cycle. -/
theorem PolledAt.flash_complete (hleft : s.flash.LEFT = .reads m) :
    ∃ r : State, r.cfg = s.cfg ∧ r.flash = { s.flash with LEFT := .reads 0 } ∧ t.flash = (complete r).flash := by
  obtain ⟨r, hcfg, hr, ht⟩ := h.flash
  rw [hleft, leftAfter, Nat.sub_self] at hr
  exact ⟨r, hcfg, hr, ht.trans (statusRead_flash_due (by rw [hr]; exact hbusy) (by rw [hr]))⟩

end

theorem PolledAt.running {o : Operation} {m : Nat} {s t : State} (h : PolledAt o m s t) (hs : Running s) :
    Running t :=
  hs.of_standing h.standing

theorem PolledAt.microStep_eq {o : Operation} {m : Nat} {s t : State} (h : PolledAt o m s t) :
    microStep t = pollTest o t := by
  simp only [microStep, h.pc]

/-- The first iteration, from POLL's start. -/
theorem poll_first {o : Operation} {s : State} (h : Running s) (hpc : s.pc = .pollStart o)
    (hopen : OpenFrameEnds s) : ∃ t, PolledAt o 0 s t := by
  have hstep : microStep s = pollBegin o s := by simp only [microStep, hpc]
  obtain ⟨t, hrun, hreads, hcs, hclk⟩ := pollIteration_run h hstep rfl hopen
  obtain ⟨r, hcfg, _, hr, ht⟩ := hreads.flash
  exact ⟨t, hrun, hreads.pc, hreads.standing, hreads.polls, hreads.status, hcs, hreads.frame, hclk, r, hcfg,
    by rw [leftAfter_zero]; exact hr, ht⟩

/-- One more iteration, after a status that showed busy below the limit. -/
theorem PolledAt.next {o : Operation} {m : Nat} {s t : State} (h : PolledAt o m s t) (hs : Running s)
    (hbusy : s.flash.BUSY = true) (hlimit : atLimit s.cfg (m + 1) = false)
    (hlasts : Outlasts s.flash.LEFT (m + 1)) : ∃ u, PolledAt o (m + 1) s u := by
  have ht := h.running hs
  have hflash := h.flash_busy hbusy hlasts
  obtain ⟨hcfg, _⟩ := standing_fields h.standing
  obtain ⟨v, hv, hflag⟩ := h.status
  have hagain := h.microStep_eq.trans
    (pollTest_again hv h.polls (hflag.trans (by rw [hflash]; exact hbusy)) (hcfg ▸ hlimit))
  obtain ⟨u, hrun, hreads, hcs, hclk⟩ :=
    pollIteration_run ht hagain rfl fun _ => Or.inr (Or.inl (hcfg ▸ h.frame))
  obtain ⟨r, hrcfg, _, hr, hu⟩ := hreads.flash
  exact ⟨u, (run_add h.run 4).trans hrun, hreads.pc, hreads.standing.trans h.standing, hreads.polls, hreads.status,
    hcs, hcfg ▸ hreads.frame, hclk.trans h.clkdiv, r, hrcfg.trans hcfg, hr.trans hflash, hu⟩

/-- A cycle that outlasts `m` reads is polled `m + 1` times, four steps each, below the limit. -/
theorem poll_polledAt {o : Operation} {s : State} (h : Running s) (hpc : s.pc = .pollStart o)
    (hopen : OpenFrameEnds s) (hbusy : s.flash.BUSY = true) (m : Nat) (hlimit : ∀ j ≤ m, atLimit s.cfg j = false)
    (hlasts : Outlasts s.flash.LEFT m) : ∃ t, PolledAt o m s t := by
  induction m with
  | zero => exact poll_first h hpc hopen
  | succ m ih =>
    obtain ⟨t, ht⟩ := ih (fun j hj => hlimit j (Nat.le_succ_of_le hj)) (hlasts.mono (Nat.le_succ m))
    exact ht.next h hbusy (hlimit (m + 1) le_rfl) hlasts

/-- Settles O39: the cycle outlasts `n` reads, and the next read completes it. -/
theorem pollReadsExactly : Obligations.PollReadsExactly := by
  intro s o n hf hr ha hv hlimit hfs hopen hbusy hleft hpc
  have hs : Running s := ⟨hf, hr, ha, hv, hfs⟩
  obtain ⟨t, ht⟩ := poll_polledAt hs hpc hopen hbusy n (fun j _ => atLimit_unbounded hlimit j)
    (Or.inr ⟨n, hleft, le_rfl⟩)
  obtain ⟨hfault, hline, hactive, _, _⟩ := ht.running hs
  obtain ⟨r, _, _, hflash⟩ := ht.flash_complete hbusy hleft
  obtain ⟨v, hstatus, hflag⟩ := ht.status
  have hidle : t.flash.BUSY = false := by rw [hflash]; exact complete_idle r
  refine ⟨t, ht.run, hfault, ht.pc, ht.polls, hidle, by rw [hflash]; rfl, by rw [hflash]; rfl, ht.cs, ht.frame, ?_⟩
  rw [step_active hfault hline hactive, ht.microStep_eq, pollTest_return hstatus ht.polls (hflag.trans hidle)]

/-- Settles O40: a cycle that never ends outlasts every number of reads. -/
theorem pollNeverEnds : Obligations.PollNeverEnds := by
  intro s o hf hr ha hv hlimit hfs hopen hbusy hleft hpc m
  have hs : Running s := ⟨hf, hr, ha, hv, hfs⟩
  obtain ⟨t, ht⟩ := poll_polledAt hs hpc hopen hbusy m (fun j _ => atLimit_unbounded hlimit j) (Or.inl hleft)
  have hflash : t.flash = s.flash := by rw [ht.flash_busy hbusy (Or.inl hleft), hleft, leftAfter, ← hleft]
  obtain ⟨v, hstatus, hflag⟩ := ht.status
  obtain ⟨_, _, _, hactive, _⟩ := standing_fields ht.standing
  have hresult : (standing t).RESULT = (standing s).RESULT := congrArg State.RESULT ht.standing
  exact ⟨t, v, ht.run, (ht.running hs).fault, ht.pc, ht.polls, hstatus,
    hflag.trans ((congrArg Flash.BUSY hflash).trans hbusy), hactive, hresult, hflash⟩

/-- Settles O41: the limit is not met before the last of `k + 1` reads, and that read still shows busy. -/
theorem pollTimesOut : Obligations.PollTimesOut := by
  intro s o k hf hr ha hv hlimit hfs hopen hbusy hlasts hpc
  have hs : Running s := ⟨hf, hr, ha, hv, hfs⟩
  have hbelow : ∀ j ≤ k, atLimit s.cfg j = false := fun j hj => by
    rw [atLimit, hlimit]
    exact decide_eq_false (by omega)
  obtain ⟨t, ht⟩ := poll_polledAt hs hpc hopen hbusy k hbelow (Outlasts.mono hlasts (Nat.le_succ k))
  obtain ⟨hfault, hline, hactive, _, htfs⟩ := ht.running hs
  have hflash := ht.flash_busy hbusy hlasts
  have htbusy : t.flash.BUSY = true := by rw [hflash]; exact hbusy
  obtain ⟨hcfg, _⟩ := standing_fields ht.standing
  obtain ⟨v, hstatus, hflag⟩ := ht.status
  have hat : atLimit t.cfg (k + 1) = true := by
    rw [atLimit, hcfg, hlimit]
    exact decide_eq_true le_rfl
  have hend := ht.microStep_eq.trans (pollTest_timeout hstatus ht.polls (hflag.trans htbusy) hat)
  refine ⟨_, (run_add ht.run 1).trans (run_active hfault hline hactive hend rfl),
    ⟨hfault, rfl, rfl, List.getLast?_concat⟩, rfl, htbusy, ?_, htfs, ht.cs, ht.frame⟩
  show t.flash.PENDING = s.flash.PENDING
  rw [hflash]

/-! ## The unlock, rule R132 -/

/-- The data byte of the unlock's frame, its last byte. -/
theorem frameData_unlock_ok {s : State} (hf : s.FAULT = none) (hc : s.bus.CS = true) (hr : s.bus.FRAME_RD = .none)
    (hpc : s.pc = .frData .unlock 0) : microStep s = { s with
      pc := .frGo .unlock
      PHASE := .issued
      bus := { s.bus with FRAME := s.bus.FRAME ++ [s.cfg.UNLOCK_SR_VALUE] }
      TRACE := s.TRACE ++ [.tx s.cfg.UNLOCK_SR_VALUE] } :=
  (frameData_step hpc hf hc hr rfl Nat.one_pos).trans (afterByte_last (ds := [s.cfg.UNLOCK_SR_VALUE]) rfl le_rfl)

/-- ENABLE and the frame of WRSR start the status write of the unlock at an idle flash. -/
theorem unlock_starts {s : State} (hf : s.FAULT = none) (hr : s.RESET_LINE = none) (ha : s.ACTIVE ≠ none)
    (hv : s.cfg.Valid) (ho : OpenFrameEnds s) (hb : s.flash.BUSY = false) (hpc : s.pc = .enFs .unlock) :
    ∃ t, Reaches s t ∧ t.pc = .pollStart .unlock ∧ standing t = standing { s with bus := { s.bus with FS := true } } ∧
      t.bus.CS = false ∧ t.bus.CLKDIV = s.bus.CLKDIV ∧
      t.flash = { s.flash with
        WEL := true, BUSY := true, PENDING := .writeSR s.cfg.UNLOCK_SR_VALUE, LEFT := nextDuration s } := by
  refine ⟨_, Reaches.trans ⟨4, enableSetsTheLatch s .unlock hf hr ha hv ho hb hpc⟩ <|
    .active hf hr ha (frameCs_ok ⟨hf, hv, rfl, nofun⟩) <|
    .active hf hr ha (frameOp_unlock_ok hf rfl rfl) <|
    .active hf hr ha (frameData_unlock_ok hf rfl rfl rfl) <|
    .active hf hr ha (frameGo_ok hf rfl (frameEnd_unlock hv ⟨hb, rfl⟩ rfl rfl)) (.refl _), ?_⟩
  exact ⟨rfl, rfl, rfl, rfl, rfl⟩

/-- The completed status write of the unlock, rules R60 and R103. -/
theorem complete_unlock_flash {s : State} (h : s.flash.PENDING = .writeSR s.cfg.UNLOCK_SR_VALUE) :
    (complete s).flash = { s.flash with WEL := false, BUSY := false, PENDING := .none, PROT := false } := by
  simp [complete, cycleEffect, h]

/-- The unlock over a finite cycle: POLL returns to INIT, the protection is off and the array is as before. -/
theorem unlock_completes {s : State} {n : Nat} (hf : s.FAULT = none) (hr : s.RESET_LINE = none)
    (ha : s.ACTIVE ≠ none) (hv : s.cfg.Valid) (hlimit : s.cfg.POLL_LIMIT = none) (ho : OpenFrameEnds s)
    (hb : s.flash.BUSY = false) (hpc : s.pc = .enFs .unlock) (hfinite : nextDuration s = .reads n) :
    ∃ t, Reaches s t ∧ t.pc = .idCs ∧ Running t ∧ t.cfg = s.cfg ∧ t.launch = s.launch ∧
      t.bus.FRAME = [s.cfg.OP_RDSR] ∧ t.bus.CLKDIV = s.bus.CLKDIV ∧ t.flash.BUSY = false ∧ t.flash.PROT = false ∧
      t.flash.ARRAY = s.flash.ARRAY := by
  obtain ⟨t, hst, htpc, hstand, hcs, hclk, hflash⟩ := unlock_starts hf hr ha hv ho hb hpc
  have hrun : Running t :=
    Running.of_standing (s := { s with bus := { s.bus with FS := true } }) ⟨hf, hr, ha, hv, rfl⟩ hstand
  obtain ⟨hcfg, hlaunch, _⟩ := standing_fields hstand
  replace hcfg : t.cfg = s.cfg := hcfg
  rw [hfinite] at hflash
  obtain ⟨w, hw⟩ := poll_polledAt hrun htpc (fun hopen => absurd (hcs.symm.trans hopen) nofun) (by rw [hflash]) n
    (fun j _ => atLimit_unbounded (hcfg ▸ hlimit) j) (Or.inr ⟨n, by rw [hflash], le_rfl⟩)
  obtain ⟨r, hrcfg, hr, hwflash⟩ := hw.flash_complete (by rw [hflash]) (by rw [hflash])
  rw [hflash] at hr
  rw [complete_unlock_flash (by rw [hr, hrcfg, hcfg]), hr] at hwflash
  obtain ⟨hwcfg, hwlaunch, _⟩ := standing_fields hw.standing
  have hwrun := hw.running hrun
  obtain ⟨v, hstatus, hflag⟩ := hw.status
  have hreturn := hw.microStep_eq.trans (pollTest_return hstatus hw.polls (hflag.trans (by rw [hwflash])))
  refine ⟨_, hst.trans (.trans ⟨_, hw.run⟩ (.active hwrun.fault hwrun.line hwrun.active
    (hreturn.trans (initEnableFs_ok hwrun.fault)) (.refl _))), rfl,
    ⟨hwrun.fault, hwrun.line, hwrun.active, hwrun.valid, rfl⟩, hwcfg.trans hcfg, hwlaunch.trans hlaunch,
    hcfg ▸ hw.frame, hw.clkdiv.trans hclk, ?_⟩
  show w.flash.BUSY = false ∧ w.flash.PROT = false ∧ w.flash.ARRAY = s.flash.ARRAY
  rw [hwflash]
  exact ⟨rfl, rfl, rfl⟩

/-! ## INIT from READ_ID to its end, rules R131 and R133 to R135 -/

/-- The end of INIT after READ_ID and the Probe from `s`, with the identification `ids` and the geometry `g`. -/
def initEnded (g : Geometry) (ids : List Byte) (draws : Draws) (s : State) : State :=
  { s with
    draws := draws
    GEOM := some g
    INIT_DONE := true
    PHASE := .idle
    ACTIVE := none
    RESULT := some (.okSize g.total_size)
    work := { s.work with ID := some ids }
    pc := .haltIdle
    bus := { s.bus with
      FS := false, SPI_FS_OTHER := 0#31, RESP := ids, CS := false, FRAME := [s.cfg.OP_RDID], FRAME_RD := .done }
    TRACE := s.TRACE ++ [.csStart, .tx s.cfg.OP_RDID, .delay, .rxId ids, .go, .logId ids, .fsSet false,
      .probe (.found g), .res (.okSize g.total_size)] }

theorem initProbe_ok (s : State) : initProbe s = { s with
    pc := .initStore
    TRACE := s.TRACE ++ [.probe s.launch.PROBE_RESULT] } := rfl

theorem initStore_found {s : State} {g : Geometry} (hp : s.launch.PROBE_RESULT = .found g)
    (hg : validGeometry g = true) :
    initStore s = endWith (.okSize g.total_size) { s with GEOM := some g, INIT_DONE := true } := by
  simp [initStore, hp, hg]

/-- READ_ID, LogId, FS_SET(0), the Probe and the store of its valid geometry: eight steps. -/
theorem readId_run {s : State} {g : Geometry} (h : Running s) (hpc : s.pc = .idCs) (ho : OpenFrameEnds s)
    (hb : s.flash.BUSY = false) (hp : s.launch.PROBE_RESULT = .found g) (hg : validGeometry g = true) :
    ∃ ids draws, ids.length = s.cfg.RDID_LEN ∧ Sys2Proof.core.run 8 s = .next (initEnded g ids draws s) := by
  obtain ⟨hf, hr, ha, hv, hfs⟩ := h
  have hcs : microStep s = readIdCs s := by simp only [microStep, hpc]
  obtain ⟨ids, draws, hlen, hrx⟩ := readIdRx_ok (s := { s with
      pc := .idRx
      bus := { s.bus with CS := true, FRAME := [s.cfg.OP_RDID], FRAME_RD := .opened }
      TRACE := s.TRACE ++ [.csStart] ++ [.tx s.cfg.OP_RDID] ++ [.delay] }) rfl rfl rfl hb
  refine ⟨ids, draws, hlen, ?_⟩
  refine run_active hf hr ha (hcs.trans (readIdCs_ok hf hv hfs ho)) ?_
  refine run_active hf hr ha (readIdTx_ok hf rfl rfl rfl) ?_
  refine run_active hf hr ha (readIdDelay_ok hf rfl rfl) ?_
  refine run_active hf hr ha hrx ?_
  refine run_active hf hr ha (readIdGo_ok hf hv rfl rfl hb) ?_
  refine run_active hf hr ha (initDisableFs_ok (by exact hf) rfl hv rfl) ?_
  refine run_active hf hr ha (initProbe_ok _) ?_
  refine run_active hf hr ha (initStore_found hp hg) ?_
  simp [Host.Core.run, initEnded, endWith_eq, hp]

/-- Settles O37: the clock step, the unlock over its finite cycle, then READ_ID and the Probe. -/
theorem initOfByteProgrammableUnlocks : Obligations.InitOfByteProgrammableUnlocks := by
  intro s g n hidle hv hvariant hlimit hdone hopen hb hfinite hp hg
  obtain ⟨hf, ha, hr⟩ := hidle
  have hclock := initBegin_byteProgrammable (s := startRequest .init s) hf hdone hvariant
  obtain ⟨t, hst, htpc, hrun, hcfg, hlaunch, hframe, hclk, htidle, hprot, harray⟩ := unlock_completes
    (s := { startRequest .init s with
      pc := .enFs .unlock
      bus := { s.bus with CLKDIV := s.cfg.CLK_DIV_BYTE }
      TRACE := s.TRACE ++ [.req .init] ++ [.clkSet s.cfg.CLK_DIV_BYTE] })
    hf hr nofun hv hlimit hopen hb rfl hfinite
  replace hcfg : t.cfg = s.cfg := hcfg
  obtain ⟨ids, draws, _, hend⟩ := readId_run hrun htpc (fun _ => Or.inr (Or.inl (hcfg ▸ hframe))) htidle
    ((congrArg Launch.PROBE_RESULT hlaunch).trans hp) hg
  obtain ⟨k, hk⟩ := Reaches.active (s := startRequest .init s) hf hr nofun hclock (hst.trans ⟨8, hend⟩)
  exact ⟨_, k, _, admitRequest_ok hf ha rfl, hk, ⟨hrun.fault, rfl, rfl, by simp [initEnded]⟩, rfl, rfl, hprot, htidle,
    harray, rfl, hclk⟩

end Sys2Proof.Machine
end

section
/-! PROOFS. ProgramError is never returned: spec/44_orchestrators.md rules R119 and R125. -/

namespace Sys2Proof.Machine

/-! ## Parts of a step that do not return ProgramError, rule R125 -/

section
variable {s : State} (h : NoProgramError s)
include h

theorem NoProgramError.event {e : Event} (he : e ≠ .res .programError) : NoProgramError (emit e s) := by
  obtain ⟨hresult, htrace, hrem⟩ := h
  exact ⟨hresult, by simp [htrace, he.symm], hrem⟩

/-- The step goes on at a label, at the check after L_DONE only with nothing left to write. -/
theorem NoProgramError.jump {l : Label} (hl : l = .writeEnd → s.work.REM = some 0#32) :
    NoProgramError (goTo l s) := by
  obtain ⟨hresult, htrace, _⟩ := h
  exact ⟨hresult, htrace, hl⟩

theorem NoProgramError.ended {c : Result} (hc : c ≠ .programError) : NoProgramError (endWith c s) := by
  obtain ⟨_, htrace, _⟩ := h.event (e := .res c) (by simpa using hc)
  exact ⟨by simpa using hc, htrace, nofun⟩

/-- The registers may change, but for REM at the check after L_DONE. -/
theorem NoProgramError.registers (w : Work) (hpc : s.pc ≠ .writeEnd) : NoProgramError { s with work := w } := by
  obtain ⟨hresult, htrace, _⟩ := h
  exact ⟨hresult, htrace, fun hend => absurd hend hpc⟩

theorem NoProgramError.andThen {f : State → State} (hf : ∀ u, NoProgramError u → NoProgramError (f u)) :
    NoProgramError (s.andThen f) := by
  rcases andThen_cases s f with ⟨_, e⟩ | ⟨_, _, e⟩ <;> rw [e]
  · exact hf s h
  · exact h

/-- A part of a step, then a jump: the shape of most of the microprogram's steps. -/
theorem NoProgramError.andGoTo {l : Label} (hl : l = .writeEnd → s.work.REM = some 0#32) :
    NoProgramError (s.andThen (goTo l)) := by
  rcases andThen_cases s (goTo l) with ⟨_, e⟩ | ⟨_, _, e⟩ <;> rw [e]
  · exact h.jump hl
  · exact h

theorem NoProgramError.need {α : Type} {k : α → State} (r : Option α) (hk : ∀ v, NoProgramError (k v)) :
    NoProgramError (need r s k) := by
  rcases need_cases r s k with ⟨v, _, e⟩ | ⟨_, e⟩ <;> rw [e]
  · exact hk v
  · exact h

/-! ## The transport calls, rules R73 to R81 -/

theorem NoProgramError.frameEnd (latched : Bool) : NoProgramError (frameEnd latched s) := by
  rcases frameEnd_cases latched s with ⟨_, e⟩ | e | e | ⟨_, _, _, _, e⟩ <;> rw [e] <;> exact h

theorem NoProgramError.endOpenFrame : NoProgramError (endOpenFrame s) := by
  rcases endOpenFrame_cases s with ⟨_, e⟩ | e <;> rw [e] <;> exact h

/-- RX, where what its caller does with the byte returns no ProgramError. -/
theorem NoProgramError.rx {k : Byte → State → State} (hk : ∀ v u, NoProgramError u → NoProgramError (k v u)) :
    NoProgramError (rx k s) := by
  rcases rx_cases k s with e | e <;> rw [e]
  · exact h
  · have hread : NoProgramError (statusRead s).2 := by rwa [statusRead_eq]
    exact hk _ _ (NoProgramError.event hread nofun)

/-- RX_ID, where what its caller does with the bytes returns no ProgramError. -/
theorem NoProgramError.rxId {k : List Byte → State → State}
    (hk : ∀ ids u, NoProgramError u → NoProgramError (k ids u)) : NoProgramError (rxId k s) := by
  rcases rxId_cases k s with ⟨_, e⟩ | e <;> rw [e]
  · exact h
  · rw [drawBytes_eq]
    exact hk _ _ (NoProgramError.event h nofun)

/-- A transport call logs no result. -/
theorem NoProgramError.call (p : Call) : NoProgramError (runCall p s) := by
  cases p with
  | fs v =>
    refine NoProgramError.andThen ?_ fun u hu => NoProgramError.event hu nofun
    split
    · exact h
    · exact h.endOpenFrame.andThen fun _ hu => hu
  | clk d => exact NoProgramError.event h nofun
  | cs =>
    simp only [runCall, csStart]
    split
    · exact h
    · exact h.endOpenFrame.andThen fun u hu => NoProgramError.event hu nofun
  | tx b =>
    simp only [runCall, tx]
    split
    · exact NoProgramError.event h nofun
    · exact h
  | txa a =>
    simp only [runCall, txAddr]
    split
    · exact h
    split
    · exact NoProgramError.event h nofun
    · exact h
  | delay =>
    simp only [runCall, delay]
    split
    · exact NoProgramError.event h nofun
    · exact h
  | rx => exact h.rx fun _ _ hu => hu
  | rxid => exact h.rxId fun _ _ hu => hu
  | go =>
    simp only [runCall, go]
    split
    · exact (h.frameEnd true).andThen fun u hu => NoProgramError.event hu nofun
    · exact h

theorem NoProgramError.txAll (bs : List Byte) : NoProgramError (txAll bs s) := by
  induction bs generalizing s with
  | nil => exact h
  | cons b bs ih => exact (h.call (.tx b)).andThen fun _ hu => ih hu

theorem NoProgramError.issue (op : Byte) : NoProgramError (issue op s) :=
  (h.call .cs).andThen fun _ hu => hu.call (.tx op)

theorem NoProgramError.issueAddr (op : Byte) (a : U32) : NoProgramError (issueAddr op a s) :=
  (h.issue op).andThen fun _ hu => hu.call (.txa a)

/-! ## The microprogram -/

theorem NoProgramError.enableFs (o : Operation) : NoProgramError (enableFs o s) :=
  (h.call (.fs true)).andGoTo nofun

theorem NoProgramError.afterByte (o : Operation) (k : Nat) : NoProgramError (afterByte o k s) := by
  refine h.need _ fun ds => ?_
  split
  · exact h.jump nofun
  · exact .jump (by exact h) nofun

theorem NoProgramError.frameOp (o : Operation) : NoProgramError (frameOp o s) := by
  refine (h.call (.tx _)).andThen fun u hu => ?_
  split
  · exact hu.afterByte o 0
  · exact hu.jump nofun

theorem NoProgramError.pollCs (o : Operation) : NoProgramError (pollCs o s) :=
  (h.call .cs).andGoTo nofun

theorem NoProgramError.initBegin : NoProgramError (initBegin s) := by
  unfold Machine.initBegin
  split
  · exact h
  split <;> exact (h.call (.clk _)).andGoTo nofun

theorem NoProgramError.initStore : NoProgramError (initStore s) := by
  unfold Machine.initStore
  split
  · exact h.ended nofun
  split
  · exact h
  · exact .ended (by exact h) nofun

theorem NoProgramError.eraseSector (i : I32) : NoProgramError (eraseSector i s) := by
  refine h.need _ fun size => ?_
  split
  · exact h
  · exact NoProgramError.enableFs (by exact h) .sector

/-- L_SEC and L_EDONE. -/
theorem NoProgramError.eraseLoop : NoProgramError (eraseLoop s) := by
  refine h.need _ fun i => h.need _ fun last => ?_
  split
  · unfold eraseDone
    split
    · exact (h.call (.fs false)).andGoTo nofun
    · exact h.ended nofun
  · exact (h.event (e := .progress i) nofun).eraseSector i

theorem NoProgramError.eraseBegin : NoProgramError (eraseBegin s) := by
  unfold Machine.eraseBegin
  split
  · exact h
  · exact h.need _ fun _ => NoProgramError.eraseLoop (by exact h)

/-- L_CHUNK and L_BYTE: L_DONE is reached only with REM = 0, and its FS_SET(0) keeps REM. -/
theorem NoProgramError.writeLoop : NoProgramError (writeLoop s) := by
  unfold Machine.writeLoop
  rcases need_cases s.work.REM s _ with ⟨rem, hrem, e⟩ | ⟨_, e⟩ <;> rw [e]
  · split
    next hzero =>
      have hkept : (fsSet false s).work.REM = some 0#32 := by rw [(fsSet_keeps false s).work, hrem, hzero]
      exact (h.call (.fs false)).andGoTo fun _ => hkept
    · refine h.need _ fun cur => ?_
      split <;> exact NoProgramError.enableFs (by exact h) _
  · exact h

variable (hpc : s.pc ≠ .writeEnd)
include hpc

theorem NoProgramError.writeBegin : NoProgramError (writeBegin s) := by
  unfold Machine.writeBegin
  split
  · exact h
  · exact h.need _ fun _ => (h.registers _ hpc).writeLoop

theorem NoProgramError.writeNext : NoProgramError (writeNext s) :=
  h.need _ fun _ => h.need _ fun _ => h.need _ fun _ => h.need _ fun _ => (h.registers _ hpc).writeLoop

theorem NoProgramError.pollReturn (o : Operation) : NoProgramError (pollReturn o s) := by
  cases o with
  | unlock => exact (h.call (.fs true)).andGoTo nofun
  | sector => exact h.need _ fun _ => NoProgramError.eraseLoop (by exact h)
  | page => exact h.writeNext hpc
  | byte => exact h.writeNext hpc

theorem NoProgramError.pollTest (o : Operation) : NoProgramError (pollTest o s) := by
  refine h.need _ fun v => h.need _ fun n => ?_
  dsimp only
  split
  · exact NoProgramError.pollReturn (by exact h) (by exact hpc) o
  split
  · exact .ended (by exact h) nofun
  · exact NoProgramError.pollCs (by exact h) o

end

/-- A step of a request returns no ProgramError: the check after L_DONE finds REM = 0. -/
theorem NoProgramError.microStep {s : State} (h : NoProgramError s) : NoProgramError (microStep s) := by
  unfold Machine.microStep
  cases hpc : s.pc with
  | haltIdle => exact h
  | initEntry => exact h.initBegin
  | enFs o => exact h.enableFs o
  | enCs o => exact (h.call .cs).andGoTo nofun
  | enTx o => exact (h.call (.tx _)).andGoTo nofun
  | enGo o => exact (h.call .go).andThen fun _ hu => .jump (by exact hu) nofun
  | frCs o => exact (h.call .cs).andGoTo nofun
  | frOp o => exact h.frameOp o
  | frAddr o => exact h.need _ fun a => (h.call (.txa a)).andThen fun _ hu => hu.afterByte o 0
  | frData o k =>
    exact h.need _ fun _ => h.need _ fun b => (h.call (.tx b)).andThen fun _ hu => hu.afterByte o (k + 1)
  | frGo o => exact (h.call .go).andThen fun _ hu => .jump (by exact hu) nofun
  | pollStart o => exact NoProgramError.pollCs (by exact h) o
  | pollTx o => exact (h.call (.tx _)).andGoTo nofun
  | pollDelay o => exact (h.call .delay).andGoTo nofun
  | pollRx o => exact h.rx fun _ _ hu => .jump (by exact hu) nofun
  | pollTest o => exact h.pollTest (by simp [hpc]) o
  | initFsOn => exact (h.call (.fs true)).andGoTo nofun
  | idCs => exact (h.call .cs).andGoTo nofun
  | idTx => exact (h.call (.tx _)).andGoTo nofun
  | idDelay => exact (h.call .delay).andGoTo nofun
  | idRx => exact h.rxId fun _ _ hu => .jump (by exact hu) nofun
  | idGo => exact (h.call .go).andGoTo nofun
  | initFsOff => exact h.need _ fun ids => ((h.event (e := .logId ids) nofun).call (.fs false)).andGoTo nofun
  | initProbe => exact (h.event (e := .probe _) nofun).jump (l := .initStore) nofun
  | initStore => exact h.initStore
  | eraseEntry => exact h.eraseBegin
  | eraseEnd => exact h.ended nofun
  | writeEntry => exact h.writeBegin (by simp [hpc])
  | writeEnd =>
    obtain ⟨_, _, hrem⟩ := id h
    exact writeFinish_ok (hrem hpc) ▸ h.ended (c := .ok) nofun

/-! ## The moves between requests, and resets -/

theorem noProgramError_of_runs {f : State → State} {s t : State} (h : NoProgramError s)
    (hf : ∀ u, NoProgramError u → NoProgramError (f u)) (hstep : runs s f = .next t) : NoProgramError t := by
  cases hfault : s.FAULT with
  | none =>
    rw [runs_ok hfault] at hstep
    cases hstep
    exact hf s h
  | some x => simp [runs_fault hfault] at hstep

/-- A request starts at its entry. -/
theorem noProgramError_of_admitRequest {r : Request} {s t : State} (h : NoProgramError s)
    (hstep : admitRequest r s = .next t) : NoProgramError t := by
  rcases admit_cases r s with ⟨_, _, _, e⟩ | ⟨x, _, e⟩ | e <;> rw [e] at hstep <;> cases hstep
  obtain ⟨hresult, htrace, _⟩ := h.event (e := .req r) nofun
  exact ⟨hresult, htrace, by cases r <;> nofun⟩

theorem noProgramError_of_exec {i : Instr} {s t : State} (h : NoProgramError s) (hstep : exec i s = .next t) :
    NoProgramError t := by
  cases i with
  | rdid =>
    exact noProgramError_of_runs h (fun _ hu => (((hu.issue _).andThen fun _ hv => hv.call .delay).andThen
      fun _ hv => hv.rxId (k := setId) fun _ _ hw => hw).andThen fun _ hv => hv.call .go) hstep
  | wren => exact noProgramError_of_runs h (fun _ hu => (hu.issue _).andThen fun _ hv => hv.call .go) hstep
  | rdsr =>
    exact noProgramError_of_runs h (fun _ hu => ((hu.issue _).andThen fun _ hv => hv.call .delay).andThen
      fun _ hv => hv.rx (k := setStatus) fun _ _ hw => hw) hstep
  | se a => exact noProgramError_of_runs h (fun _ hu => (hu.issueAddr _ a).andThen fun _ hv => hv.call .go) hstep
  | pp a data =>
    exact noProgramError_of_runs h (fun _ hu => ((hu.issueAddr _ a).andThen fun _ hv => hv.txAll data).andThen
      fun _ hv => hv.call .go) hstep
  | ce => exact noProgramError_of_runs h (fun _ hu => (hu.issue _).andThen fun _ hv => hv.call .go) hstep
  | wrsr v =>
    exact noProgramError_of_runs h (fun _ hu => ((hu.issue _).andThen fun _ hv => hv.call (.tx v)).andThen
      fun _ hv => hv.call .go) hstep
  | init => exact noProgramError_of_admitRequest h hstep
  | erase first last => exact noProgramError_of_admitRequest h hstep
  | write dest data => exact noProgramError_of_admitRequest h hstep

theorem noProgramError_of_hostRead {x : U32} {s t : State} (h : NoProgramError s) (hstep : hostRead x s = .next t) :
    NoProgramError t := by
  unfold hostRead at hstep
  split at hstep
  · cases hstep
    exact h
  split at hstep
  · cases hstep
  split at hstep <;> cases hstep <;> exact h

/-- A statement's move: an instruction, a frame sent as it is, a call or a window read. -/
theorem noProgramError_of_step_program {s t : State} (h : NoProgramError s) (hidle : Idle s) {q : Stmt}
    {rest : List Stmt} (hp : s.PROGRAM = q :: rest) (hstep : step s = .next t) : NoProgramError t := by
  have htaken : NoProgramError { s with PROGRAM := rest } := h
  cases hd : decodeStmt s.cfg q with
  | ok i =>
    rw [step_program_ok hidle hp hd] at hstep
    exact noProgramError_of_exec htaken hstep
  | error e =>
    cases q with
    | frame bytes =>
      rw [step_program_done hidle hp (fetchStmt_frame_error (s := { s with PROGRAM := rest }) hd)] at hstep
      cases hstep
      exact ((htaken.call .cs).andThen fun _ hu => hu.txAll bytes).andThen fun _ hu => hu.call .go
    | request bytes =>
      rw [step_program_done hidle hp (fetchStmt_request_error (s := { s with PROGRAM := rest }) hd)] at hstep
      cases hstep
    | call c =>
      rw [step_program_done hidle hp rfl] at hstep
      cases hstep
      exact htaken.call c
    | read x =>
      rw [step_program_done hidle hp rfl] at hstep
      exact noProgramError_of_hostRead htaken hstep

theorem noProgramError_of_step_idle {s t : State} (h : NoProgramError s) (hidle : Idle s) (hstep : step s = .next t) :
    NoProgramError t := by
  cases hp : s.PROGRAM with
  | nil =>
    rw [step_program_nil hidle hp] at hstep
    cases hstep
    exact h
  | cons q rest => exact noProgramError_of_step_program h hidle hp hstep

/-- A reset clears RESULT and TRACE, and the machine is at HALT_IDLE. -/
theorem noProgramError_applyReset (e : ResetEvent) (s : State) : NoProgramError (applyReset e s) := by
  cases e <;> exact ⟨nofun, nofun, nofun⟩

/-- Settles O48: at power-on there is no result, and each kind of step keeps the invariant. -/
theorem programErrorIsNeverReturned : Obligations.ProgramErrorIsNeverReturned := by
  refine ⟨fun s t h hstep => ?_, fun c l contents => ⟨nofun, nofun, nofun⟩⟩
  have hf := fault_none_of_step hstep
  rcases Option.eq_none_or_eq_some s.RESET_LINE with hr | ⟨e, hr⟩
  · by_cases ha : s.ACTIVE = none
    · exact noProgramError_of_step_idle h ⟨hf, ha, hr⟩ hstep
    · rw [step_active hf hr ha] at hstep
      cases hstep
      exact h.microStep
  · rw [step_reset hf hr] at hstep
    cases hstep
    exact noProgramError_applyReset e s

end Sys2Proof.Machine
end

section
/-! PROOFS. INIT of the generic variant, and ERASE's visit of a sector and its end: spec/44_orchestrators.md rules R118
and R126 to R129, spec/45_initialization.md rules R131 to R137. -/

namespace Sys2Proof.Machine

/-! ## INIT of the generic variant, rule R131 -/

/-- Settles O35: the clock step and FS_SET(1), then READ_ID, the Probe and the store of its geometry. -/
theorem initOfGenericCompletes : Obligations.InitOfGenericCompletes := by
  intro s g ⟨hf, ha, hr⟩ hv hvariant hdone hopen hb hp hg
  obtain ⟨ids, draws, hlen, hend⟩ := readId_run (g := g) (s := { startRequest .init s with
      pc := .idCs
      bus := { s.bus with CLKDIV := s.cfg.CLK_DIV_GENERIC, FS := true, SPI_FS_OTHER := 0#31 }
      TRACE := s.TRACE ++ [.req .init] ++ [.clkSet s.cfg.CLK_DIV_GENERIC] ++ [.fsSet true] })
    ⟨hf, hr, nofun, hv, rfl⟩ rfl hopen hb hp hg
  have hfs := run_active (s := { startRequest .init s with
      pc := .initFsOn
      bus := { s.bus with CLKDIV := s.cfg.CLK_DIV_GENERIC }
      TRACE := s.TRACE ++ [.req .init] ++ [.clkSet s.cfg.CLK_DIV_GENERIC] })
    hf hr nofun (initEnableFs_ok (by exact hf)) hend
  have hclock := run_active (s := startRequest .init s) hf hr nofun (initBegin_generic (by exact hf) hdone hvariant) hfs
  exact ⟨_, _, ids, admitRequest_ok hf ha rfl, hclock, hlen, ⟨hf, rfl, rfl, by simp [initEnded]⟩, rfl, rfl, rfl, rfl,
    rfl, rfl, by simp [initEnded]⟩

/-! ## L_SEC and L_EDONE, rules R126 to R129 -/

section
variable {s : State} {i last : I32} (hi : s.work.SEC_I = some i) (hlast : s.work.SEC_LAST = some last)
include hi hlast

/-- An index that is not past the last: Progress, then the visit. -/
theorem eraseLoop_sector (h : i.toInt ≤ last.toInt) : eraseLoop s = eraseSector i (emit (.progress i) s) := by
  have hmore : pastLast i last = false := decide_eq_false (not_lt.mpr h)
  simp [eraseLoop, hi, hlast, hmore]

theorem eraseLoop_past (h : last.toInt < i.toInt) : eraseLoop s = eraseDone s := by
  have hpast : pastLast i last = true := decide_eq_true h
  simp [eraseLoop, hi, hlast, hpast]

end

/-- L_EDONE where ERASE_RELEASES_FS: FS_SET(0), rule R128. -/
theorem eraseDone_releases {s : State} (hf : s.FAULT = none) (hv : s.cfg.Valid) (ho : OpenFrameEnds s)
    (h : s.cfg.ERASE_RELEASES_FS = true) : eraseDone s = { s with
      pc := .eraseEnd
      bus := { s.bus with CS := false, FS := false, SPI_FS_OTHER := 0#31 }
      TRACE := s.TRACE ++ [.fsSet false] } := by
  rw [eraseDone, if_pos h, fsSet_off hf hv ho, andThen_ok (by exact hf)]
  rfl

theorem eraseDone_keepsFs {s : State} (h : s.cfg.ERASE_RELEASES_FS = false) : eraseDone s = endWith .ok s :=
  if_neg (by simp [h])

theorem endWith_over {s : State} (c : Result) (hf : s.FAULT = none) : Over c (endWith c s) :=
  ⟨hf, rfl, rfl, List.getLast?_concat⟩

/-- The range check of rule R126 fails outside [0, 2^24). -/
theorem fitSectorAddress_eq_none {p : Int} : fitSectorAddress p = none ↔ p < 0 ∨ 2 ^ 24 ≤ p := by
  simp only [fitSectorAddress, FLASH_ADDR_BITS, ite_eq_left_iff, reduceCtorEq, imp_false, not_not]

/-- The index after `prev`, where it does not leave the signed range. -/
theorem eq_add_one_of_toInt {i prev : I32} (h : i.toInt = prev.toInt + 1) : prev + 1#32 = i := by
  apply BitVec.eq_of_toInt_eq
  rw [BitVec.toInt_add, show (1#32).toInt = 1 from rfl, ← h, BitVec.toInt_bmod_cancel]

/-- At its entry ERASE goes to L_SEC with its first index. -/
theorem eraseEntry_step {s : State} {i last : I32} (ha : s.ACTIVE = some (.erase i last)) (hdone : s.INIT_DONE = true)
    (hpc : s.pc = .eraseEntry) :
    microStep s = eraseLoop { s with work := { s.work with SEC_I := some i, SEC_LAST := some last } } := by
  have hoperands : eraseOperands s = some (i, last) := by rw [eraseOperands, ha]
  have hentry : microStep s = eraseBegin s := by simp only [microStep, hpc]
  rw [hentry, eraseBegin, if_neg (by simp [hdone]), hoperands, need_some]

/-- After the poll of a sector ERASE goes to L_SEC with the next index. -/
theorem eraseNext_step {s : State} {prev : I32} {v : Byte} {n : Nat} (hpc : s.pc = .pollTest .sector)
    (hprev : s.work.SEC_I = some prev) (hv : s.work.STATUS = some v) (hflag : busyFlag v = false)
    (hn : s.work.POLLS = some n) : microStep s = eraseLoop { s with
      PHASE := .idle
      work := { s.work with POLLS := some (n + 1), SEC_I := some (prev + 1#32) } } := by
  have htest : microStep s = pollTest .sector s := by simp only [microStep, hpc]
  rw [htest, pollTest_return hv hn hflag]
  simp only [pollReturn, eraseNext, hprev, need_some]

/-- The step before the visit of sector `i` is next: ERASE's entry, or the tests after the last poll of the sector
before. -/
abbrev VisitIsNext (i last : I32) (s : State) : Prop :=
  (s.ACTIVE = some (.erase i last) ∧ s.INIT_DONE = true ∧ s.pc = .eraseEntry) ∨
  (s.ACTIVE ≠ none ∧ s.pc = .pollTest .sector ∧ s.work.SEC_LAST = some last ∧ ∃ prev v n,
    s.work.SEC_I = some prev ∧ i.toInt = prev.toInt + 1 ∧ s.work.STATUS = some v ∧ v.getLsbD 0 = false ∧
    s.work.POLLS = some n)

/-- At both places the step is L_SEC's, with the index in SEC_I. -/
theorem step_of_visitIsNext {s : State} {i last : I32} (hf : s.FAULT = none) (hr : s.RESET_LINE = none)
    (h : VisitIsNext i last s) : ∃ p w, w.SEC_I = some i ∧ w.SEC_LAST = some last ∧
      step s = .next (eraseLoop { s with PHASE := p, work := w }) := by
  rcases h with ⟨ha, hdone, hpc⟩ | ⟨ha, hpc, hlast, prev, v, n, hprev, hindex, hv, hflag, hn⟩
  · exact ⟨s.PHASE, { s.work with SEC_I := some i, SEC_LAST := some last }, rfl, rfl,
      (step_active hf hr (by simp [ha])).trans (congrArg _ (eraseEntry_step ha hdone hpc))⟩
  · exact ⟨.idle, { s.work with POLLS := some (n + 1), SEC_I := some (prev + 1#32) },
      congrArg some (eq_add_one_of_toInt hindex), hlast,
      (step_active hf hr ha).trans (congrArg _ (eraseNext_step hpc hprev hv hflag hn))⟩

/-- Settles O42: L_SEC visits the sector, or ERASE is done. -/
theorem eraseVisitsASector : Obligations.EraseVisitsASector := by
  intro s i last g hf hr hg hcount hmod hnext
  obtain ⟨p, w, hi, hlast, hstep⟩ := step_of_visitIsNext hf hr hnext
  refine ⟨fun hle => ?_, fun hpast hvalid hopen => ?_⟩
  · rw [eraseLoop_sector (s := { s with PHASE := p, work := w }) hi hlast hle] at hstep
    refine ⟨_, hstep, ?_⟩
    have hsize : sectorSize (emit (.progress i) { s with PHASE := p, work := w }) =
        some (g.total_size.toNat / g.sector_count.toNat) := by
      simp [sectorSize, hg, hcount, hmod]
    rcases eraseSector_cases (s := emit (.progress i) { s with PHASE := p, work := w }) hf hsize i with
      ⟨hout, e⟩ | ⟨a, hin, e⟩ <;> rw [e]
    · rw [fitSectorAddress_eq_none, sectorAddress] at hout
      refine ⟨rfl, hi, hlast, fun _ => ⟨rfl, rfl, rfl⟩, fun h0 h24 => ?_⟩
      omega
    · rw [fitSectorAddress_eq_some, sectorAddress] at hin
      obtain ⟨h0, h24, haddr⟩ := hin
      refine ⟨rfl, hi, hlast, fun hout => ?_, fun _ _ => ⟨hf, rfl, by simp, rfl, a, rfl, haddr⟩⟩
      omega
  · rw [eraseLoop_past (s := { s with PHASE := p, work := w }) hi hlast hpast] at hstep
    refine ⟨_, hstep, ?_⟩
    cases hreleases : s.cfg.ERASE_RELEASES_FS with
    | true =>
      rw [eraseDone_releases (s := { s with PHASE := p, work := w }) hf hvalid hopen hreleases]
      exact ⟨hf, rfl, fun _ => ⟨rfl, rfl⟩, nofun⟩
    | false =>
      rw [eraseDone_keepsFs (s := { s with PHASE := p, work := w }) hreleases]
      exact ⟨hf, rfl, nofun, fun _ => ⟨endWith_over .ok hf, rfl⟩⟩

/-- Settles O43: the first L_SEC is past the last index, so L_EDONE follows in the same step. -/
theorem eraseOfAnEmptyRange : Obligations.EraseOfAnEmptyRange := by
  intro s first last ⟨hf, ha, hr⟩ hv hdone hopen hpast
  have hfirst : microStep (startRequest (.erase first last) s) = eraseDone (eraseHead first last s) :=
    (eraseStart_ok first last hdone).trans (eraseLoop_past rfl rfl hpast)
  refine ⟨startRequest (.erase first last) s, ?_⟩
  cases hreleases : s.cfg.ERASE_RELEASES_FS with
  | true =>
    rw [eraseDone_releases (s := eraseHead first last s) hf hv hopen hreleases] at hfirst
    refine ⟨_, admitRequest_ok hf ha rfl, run_active hf hr nofun hfirst (run_active hf hr nofun rfl rfl),
      endWith_over .ok hf, rfl, ?_, rfl⟩
    simp [microStep, eraseHead]
  | false =>
    rw [eraseDone_keepsFs (s := eraseHead first last s) hreleases] at hfirst
    refine ⟨_, admitRequest_ok hf ha rfl, run_active hf hr nofun hfirst rfl, endWith_over .ok hf, rfl, ?_, rfl⟩
    simp [eraseHead]

end Sys2Proof.Machine
end

section
/-! PROOFS. The answers of the Probe that do not complete INIT: spec/45_initialization.md rules R131, R134 and R135. -/

namespace Sys2Proof.Machine

theorem initStore_notFound {s : State} (hp : s.launch.PROBE_RESULT = .notFound) :
    initStore s = endWith .initError s := by
  simp [initStore, hp]

theorem initStore_invalid {s : State} {g : Geometry} (hp : s.launch.PROBE_RESULT = .found g)
    (hg : validGeometry g = false) : initStore s = raise .invalidGeometry s := by
  simp [initStore, hp, hg]

/-- The Probe's step and the tests of its answer: two steps, whatever the answer. -/
theorem probe_run {s : State} (hf : s.FAULT = none) (hr : s.RESET_LINE = none) (ha : s.ACTIVE ≠ none)
    (hpc : s.pc = .initProbe) : Sys2Proof.core.run 2 s = .next (initStore { s with
      pc := .initStore
      TRACE := s.TRACE ++ [.probe s.launch.PROBE_RESULT] }) := by
  have hprobe : microStep s = initProbe s := by simp only [microStep, hpc]
  exact run_active hf hr ha (hprobe.trans (initProbe_ok s)) (run_active hf hr ha rfl rfl)

/-- Settles O36: after the Probe's step the tests of its answer end INIT with InitError, or raise InvalidGeometry. -/
theorem initHandlesTheProbe : Obligations.InitHandlesTheProbe := by
  intro s hf hr ha hpc
  have hrun := probe_run hf hr ha hpc
  refine ⟨fun hp hgeom hdone => ?_, fun g hp hbad => ?_⟩
  · rw [initStore_notFound (by exact hp), hp] at hrun
    exact ⟨_, hrun, endWith_over .initError hf, hgeom, hdone, rfl, by simp⟩
  · rwa [initStore_invalid (by exact hp) (decide_eq_false hbad), hp] at hrun

end Sys2Proof.Machine
end

section
/-! PROOFS. INIT at a flash that is still in the middle of a cycle: spec/20_memory.md rule R58, spec/30_encoding.md
rules R80 and R81, spec/70_reset_and_hazards.md rule R155. -/

namespace Sys2Proof.Machine

/-- `t` has faulted CommandWhileBusy at the label `l`, with the flash of `s` unchanged. -/
abbrev StopsBusy (l : Label) (s t : State) : Prop :=
  t.FAULT = some .commandWhileBusy ∧ t.flash = s.flash ∧ t.pc = l

/-! ## The two calls that meet the busy flash -/

section
variable {s : State} {o : Operation} (hb : s.flash.BUSY = true)
include hb

/-- GO of ENABLE: the WREN frame is refused at its end, rule R58. -/
theorem enableGo_busy (hv : s.cfg.Valid) (hc : s.bus.CS = true)
    (hf : s.bus.FRAME = [s.cfg.OP_WREN]) : enableGo o s = raise .commandWhileBusy s := by
  have hop : s.cfg.OP_WREN ≠ s.cfg.OP_RDSR := fun e => nomatch opcode_injective hv (k := .wren) (l := .rdsr) e
  rw [enableGo, go_fault hc (frameEnd_busy hf hb hop true), andThen_raise]

theorem readIdRx_busy (hc : s.bus.CS = true) (hf : s.bus.FRAME = [s.cfg.OP_RDID])
    (hr : s.bus.FRAME_RD = .opened) : readIdRx s = raise .commandWhileBusy s :=
  rxId_busy hc hf hr hb _

/-! ## ENABLE and READ_ID up to that call, rules R106 and R133 -/

theorem enable_run_busy (hf : s.FAULT = none) (hr : s.RESET_LINE = none) (ha : s.ACTIVE ≠ none)
    (hv : s.cfg.Valid) (ho : OpenFrameEnds s) (hpc : s.pc = .enFs o) :
    ∃ t, Sys2Proof.core.run 4 s = .next t ∧ StopsBusy (.enGo o) s t := by
  have hfs : microStep s = enableFs o s := by simp only [microStep, hpc]
  exact ⟨_, run_active hf hr ha (hfs.trans (enableFs_ok hf o)) <|
    run_active hf hr ha (enableCs_ok ⟨hf, hv, rfl, ho⟩) <|
    run_active hf hr ha (enableTx_ok hf rfl rfl) <|
    run_active hf hr ha (enableGo_busy hb hv rfl rfl) rfl, rfl, rfl, rfl⟩

theorem readId_run_busy (h : Running s) (ho : OpenFrameEnds s) (hpc : s.pc = .idCs) :
    ∃ t, Sys2Proof.core.run 4 s = .next t ∧ StopsBusy .idRx s t := by
  obtain ⟨hf, hr, ha, hv, hfs⟩ := h
  have hcs : microStep s = readIdCs s := by simp only [microStep, hpc]
  exact ⟨_, run_active hf hr ha (hcs.trans (readIdCs_ok hf hv hfs ho)) <|
    run_active hf hr ha (readIdTx_ok hf rfl rfl rfl) <|
    run_active hf hr ha (readIdDelay_ok hf rfl rfl) <|
    run_active hf hr ha (readIdRx_busy hb rfl rfl rfl) rfl, rfl, rfl, rfl⟩

/-! ## INIT, rule R131 -/

variable (hf : s.FAULT = none) (hr : s.RESET_LINE = none) (hv : s.cfg.Valid) (ho : OpenFrameEnds s)
  (hdone : s.INIT_DONE = false)
include hf hr hv ho hdone

theorem init_run_busy_generic (hvariant : s.cfg.VARIANT = .generic) :
    ∃ t, Sys2Proof.core.run 6 (startRequest .init s) = .next t ∧ StopsBusy .idRx s t := by
  obtain ⟨t, hrun, hstops⟩ := readId_run_busy (s := { startRequest .init s with
      pc := .idCs
      bus := { s.bus with CLKDIV := s.cfg.CLK_DIV_GENERIC, FS := true, SPI_FS_OTHER := 0#31 }
      TRACE := s.TRACE ++ [.req .init] ++ [.clkSet s.cfg.CLK_DIV_GENERIC] ++ [.fsSet true] })
    hb ⟨hf, hr, nofun, hv, rfl⟩ ho rfl
  have hfs := run_active (s := { startRequest .init s with
      pc := .initFsOn
      bus := { s.bus with CLKDIV := s.cfg.CLK_DIV_GENERIC }
      TRACE := s.TRACE ++ [.req .init] ++ [.clkSet s.cfg.CLK_DIV_GENERIC] })
    hf hr nofun (initEnableFs_ok (by exact hf)) hrun
  have hclock := initBegin_generic (s := startRequest .init s) hf hdone hvariant
  exact ⟨t, run_active hf hr nofun hclock hfs, hstops⟩

theorem init_run_busy_byteProgrammable (hvariant : s.cfg.VARIANT = .byteProgrammable) :
    ∃ t, Sys2Proof.core.run 5 (startRequest .init s) = .next t ∧ StopsBusy (.enGo .unlock) s t := by
  obtain ⟨t, hrun, hstops⟩ := enable_run_busy (o := .unlock) (s := { startRequest .init s with
      pc := .enFs .unlock
      bus := { s.bus with CLKDIV := s.cfg.CLK_DIV_BYTE }
      TRACE := s.TRACE ++ [.req .init] ++ [.clkSet s.cfg.CLK_DIV_BYTE] })
    hb hf hr nofun hv ho rfl
  have hclock := initBegin_byteProgrammable (s := startRequest .init s) hf hdone hvariant
  exact ⟨t, run_active hf hr nofun hclock hrun, hstops⟩

end

/-- Settles O52: the reset closes the open frame and clears INIT_DONE but leaves the flash busy, so INIT runs to its
first call that a busy flash refuses. -/
theorem initAfterMidCycleResetFaults : Obligations.InitAfterMidCycleResetFaults := by
  intro s hf hr hb hv
  have hclosed : OpenFrameEnds (resetSequencer s) := nofun
  refine ⟨resetSequencer s, startRequest .init (resetSequencer s), ?_⟩
  cases hvariant : s.cfg.VARIANT with
  | generic =>
    obtain ⟨t, hrun, hstops⟩ := init_run_busy_generic (s := resetSequencer s) hb rfl rfl hv hclosed rfl hvariant
    exact ⟨t, step_reset hf hr, rfl, hrun, hstops⟩
  | byteProgrammable =>
    obtain ⟨t, hrun, hstops⟩ :=
      init_run_busy_byteProgrammable (s := resetSequencer s) hb rfl rfl hv hclosed rfl hvariant
    exact ⟨t, step_reset hf hr, rfl, hrun, hstops⟩

end Sys2Proof.Machine
end
